-- ==== Sys2Proof/Word.lean ====
section
/-! DEFINITION. The word types of the engine (00_scope.md rules R11, R12): bytes, byte strings and 32-bit registers. -/

namespace Sys2Proof

/-- A byte is 8 bits (00_scope.md rule R12). -/
abbrev Byte := BitVec 8

/-- A byte string; `b[k]` is the byte at offset `k`, from 0 (00_scope.md rule R12). -/
abbrev Bytes := List Byte

/-- A 32-bit value: the magic, a length field, a register (30_encoding.md rule R100, 10_state.md rule R47). -/
abbrev Word := BitVec 32

end Sys2Proof
end

