-- ==== Sys2Proof/Config.lean ====
section
/-! DEFINITION. The implementation parameters of 00_scope.md rule R9: the values the source fixes, the record of the
parameters it leaves OPEN, and the free values an engine is constructed with. -/

namespace Sys2Proof

/-- ERR_LEN_MODE: how the length field of an error frame counts (30_encoding.md rule R103). -/
inductive ErrLenMode where
  /-- length = m + 5: the invariant of 30_encoding.md rule R102 -/
  | exact
  /-- length = m + 4: the source encoder's arithmetic -/
  | legacy
  deriving DecidableEq, Repr, Inhabited

/-- The spec's default of ERR_LEN_MODE, EXACT (00_scope.md rule R9, 30_encoding.md rule R103, 92_eei_decisions.md D5). -/
def Config.defaultErrLenMode : ErrLenMode := .exact

/-- The places a built-in error reply is sent from; each has its own text ERR_MSG(site) (92_eei_decisions.md D8). -/
inductive Site where
  | startArgs
  | startNotFound
  | exitFail
  | infoArgs
  deriving DecidableEq, Repr

/-- The OPEN parameters of 00_scope.md rule R9. They are configuration, fixed before reset (70_reset_and_hazards.md
rule R370). DESIGN CHOICE, log entry 1: a state carries them, so that a statement about every state covers every
value of them. -/
structure Config where
  /-- ACC_CAPACITY -/
  accCapacity : Nat
  /-- ERR_LEN_MODE; EXACT unless the engine is constructed in LEGACY mode (30_encoding.md rule R103) -/
  errLenMode : ErrLenMode := Config.defaultErrLenMode
  /-- ERRCODE_ARGS -/
  errcodeArgs : Byte
  /-- ERRCODE_NOT_FOUND -/
  errcodeNotFound : Byte
  /-- ERR_MSG(START_ARGS) -/
  msgStartArgs : Bytes
  /-- ERR_MSG(START_NOT_FOUND) -/
  msgStartNotFound : Bytes
  /-- ERR_MSG(EXIT_FAIL) -/
  msgExitFail : Bytes
  /-- ERR_MSG(INFO_ARGS) -/
  msgInfoArgs : Bytes
  /-- REPLY_CAP -/
  replyCap : Nat
  deriving DecidableEq, Repr

namespace Config

/-- PROTO_VERSION, the 2-bit version field's only valid value (00_scope.md rule R9). -/
def protoVersion : BitVec 2 := 1#2

/-- PROTO_VERSION as ENCODE compares it: the whole 8-bit argument (41_framer.md rule R164). -/
def protoVersionByte : Byte := 1#8

/-- DEFAULT_MAGIC (00_scope.md rule R9). -/
def defaultMagic : Word := 0xBBACCAAA#32

/-- CMD_APP_MAX, the boundary between application and built-in command ids (30_encoding.md rule R109). -/
def cmdAppMax : Byte := 0xC8#8

/-- ERR_MSG(site) (00_scope.md rule R9, 92_eei_decisions.md D8). -/
def errMsg (c : Config) : Site → Bytes
  | .startArgs => c.msgStartArgs
  | .startNotFound => c.msgStartNotFound
  | .exitFail => c.msgExitFail
  | .infoArgs => c.msgInfoArgs

/-- The length of the longest error text, `max_site |ERR_MSG(site)|`. -/
def maxMsgLen (c : Config) : Nat :=
  max (max c.msgStartArgs.length c.msgStartNotFound.length) (max c.msgExitFail.length c.msgInfoArgs.length)

/-- The bounds 00_scope.md rule R9 sets: `12 ≤ ACC_CAPACITY < 2^32` and
`13 + max_site |ERR_MSG(site)| ≤ REPLY_CAP < 2^32`. -/
def wf (c : Config) : Bool :=
  decide (12 ≤ c.accCapacity) && decide (c.accCapacity < 2 ^ 32) &&
    decide (13 + c.maxMsgLen ≤ c.replyCap) && decide (c.replyCap < 2 ^ 32)

/-! The free values behind the parameters (00_scope.md rule R9: OPEN; log entries 2, 4 and 5). Nothing can evaluate them.
ERR_LEN_MODE has none: the spec gives its default. -/

/-- Free value behind ACC_CAPACITY (log entry 2). -/
opaque freeAccCapacity : Nat
/-- Free value of ERRCODE_ARGS (log entry 4). -/
opaque freeErrcodeArgs : Byte
/-- Free value of ERRCODE_NOT_FOUND (log entry 4). -/
opaque freeErrcodeNotFound : Byte
/-- Free value of ERR_MSG(START_ARGS) (log entry 4). -/
opaque freeMsgStartArgs : Bytes
/-- Free value of ERR_MSG(START_NOT_FOUND) (log entry 4). -/
opaque freeMsgStartNotFound : Bytes
/-- Free value of ERR_MSG(EXIT_FAIL) (log entry 4). -/
opaque freeMsgExitFail : Bytes
/-- Free value of ERR_MSG(INFO_ARGS) (log entry 4). -/
opaque freeMsgInfoArgs : Bytes
/-- Free value behind REPLY_CAP (log entry 5). -/
opaque freeReplyCap : Nat

/-- The longest an error text can be for a REPLY_CAP to exist: `13 + |ERR_MSG(site)| ≤ REPLY_CAP < 2^32`. -/
def msgLimit : Nat := 2 ^ 32 - 14

/-- `lo + n` folded into the range `lo .. 2^32 - 1`: every number of the range is the image of some `n`. -/
def inRange (lo n : Nat) : Nat := lo + n % (2 ^ 32 - lo)

/-- The configuration of an engine in a mode, with every other parameter but REPLY_CAP at its free value. -/
def freeBase (mode : ErrLenMode) : Config :=
  { accCapacity := inRange 12 freeAccCapacity
    errLenMode := mode
    errcodeArgs := freeErrcodeArgs
    errcodeNotFound := freeErrcodeNotFound
    msgStartArgs := freeMsgStartArgs.take msgLimit
    msgStartNotFound := freeMsgStartNotFound.take msgLimit
    msgExitFail := freeMsgExitFail.take msgLimit
    msgInfoArgs := freeMsgInfoArgs.take msgLimit
    replyCap := 0 }

/-- The configuration of an engine constructed in a mode: each other OPEN parameter is a free value inside the bounds of
00_scope.md rule R9 (log entries 2, 4 and 5). -/
def constructionIn (mode : ErrLenMode) : Config :=
  { freeBase mode with replyCap := inRange (13 + (freeBase mode).maxMsgLen) freeReplyCap }

/-- The configuration the modelled engine is constructed with: ERR_LEN_MODE at the spec's default (30_encoding.md rule R103;
log entry 3), the others as `constructionIn` says. -/
def construction : Config := constructionIn defaultErrLenMode

end Config

end Sys2Proof
end

