-- ==== Sys2Proof/Syntax.lean ====
section
/-! DEFINITION. What the host hands the engine (30_encoding.md rules R115, R116) and the instructions of
spec/opcode_table.json, one constructor per row. -/

namespace Sys2Proof

/-- The argument record of a host request: typed values, passed at transaction level (30_encoding.md rule R115).
DESIGN CHOICE, log entry 6: one record holds every argument of rule R116, and an operation reads only its own; a
byte-string argument (`body`, `message`, `buffer`, `data`) is the field `bytes`. The defaults are those of rule R116:
`magic` is DEFAULT_MAGIC, `version` is 1, `err` is none. -/
structure Args where
  /-- `magic` of INIT and DECODE_AT -/
  magic : Word := Config.defaultMagic
  /-- `cmd` of the ENCODE family -/
  cmd : Byte := 0#8
  /-- `flags` of ENCODE -/
  flags : Byte := 0#8
  /-- `err` of ENCODE: none, or an error code -/
  err : Option Byte := none
  /-- `version` of ENCODE -/
  version : Byte := Config.protoVersionByte
  /-- `code` of ENC_RESP_ERR -/
  code : Byte := 0#8
  /-- `dst_cap` of the ENCODE family -/
  dstCap : Word := 0#32
  /-- `index` of RDREG -/
  index : Byte := 0#8
  /-- `body`, `message`, `buffer` or `data` -/
  bytes : Bytes := []
  deriving DecidableEq, Repr

/-- The argument record with every argument zero, none or empty. -/
def Args.zero : Args := { magic := 0#32, version := 0#8 }

/-- A host request: one host command byte and an argument record (10_state.md rule R46, 30_encoding.md rule R115). -/
structure Request where
  /-- the host command byte -/
  op : Byte
  /-- the argument record -/
  args : Args
  deriving DecidableEq, Repr

/-- What an encoding of spec/opcode_table.json is an encoding of: its three formats read three different bytes, a host
command byte (HOSTOP, with its argument record), a frame's cmd byte (CMD) and a frame's flags_version byte (FLAGS).
See log entry 11. -/
inductive Code where
  /-- format HOSTOP -/
  | host (r : Request)
  /-- format CMD: the frame byte at offset 9 -/
  | cmd (b : Byte)
  /-- format FLAGS: the frame byte at offset 8 -/
  | flags (b : Byte)
  deriving DecidableEq, Repr

/-- The instructions, one per row of spec/opcode_table.json. The host operations carry their arguments of
30_encoding.md rule R116. A row that stands for a range of bytes carries the byte. The CMD and FLAGS rows are what
DISPATCH selects from the message register (44_dispatch.md rule R260). -/
inductive Instr where
  /-- INIT, 43_accumulator.md rule R230 -/
  | init (magic : Word)
  /-- ENCODE, 41_framer.md rule R160 -/
  | encode (cmd flags : Byte) (body : Bytes) (err : Option Byte) (version : Byte) (dstCap : Word)
  /-- ENC_RESP_OK, 41_framer.md rule R170 -/
  | encRespOk (cmd : Byte) (body : Bytes) (dstCap : Word)
  /-- ENC_REPORT, 41_framer.md rule R171 -/
  | encReport (cmd : Byte) (body : Bytes) (dstCap : Word)
  /-- ENC_RESP_ERR, 41_framer.md rule R172 -/
  | encRespErr (cmd code : Byte) (message : Bytes) (dstCap : Word)
  /-- DECODE_AT, 42_deframer.md rule R203 -/
  | decodeAt (buffer : Bytes) (magic : Word)
  /-- PUSH, 43_accumulator.md rule R233 -/
  | push (data : Bytes)
  /-- TRY_DECODE, 43_accumulator.md rule R236 -/
  | tryDecode
  /-- DISPATCH, 44_dispatch.md rule R261 -/
  | dispatch
  /-- RDREG, 43_accumulator.md rule R240 -/
  | rdreg (index : Byte)
  /-- reserved host command bytes 0x0A..0x0B, 30_encoding.md rule R117 -/
  | illegal0A (byte : Byte)
  /-- reserved host command bytes 0x0C..0x0F, 30_encoding.md rule R117 -/
  | illegal0C (byte : Byte)
  /-- reserved host command bytes 0x10..0x1F, 30_encoding.md rule R117 -/
  | illegal10 (byte : Byte)
  /-- reserved host command bytes 0x20..0x3F, 30_encoding.md rule R117 -/
  | illegal20 (byte : Byte)
  /-- reserved host command bytes 0x40..0x7F, 30_encoding.md rule R117 -/
  | illegal40 (byte : Byte)
  /-- reserved host command bytes 0x80..0xFF, 30_encoding.md rule R117 -/
  | illegal80 (byte : Byte)
  /-- the arm SET_REPORT, cmd 0xF8, 44_dispatch.md rule R280 -/
  | setReport
  /-- the arm APP_LIST, cmd 0xF9, 44_dispatch.md rule R266 -/
  | appList
  /-- the arm START_APP, cmd 0xFA, 44_dispatch.md rule R269 -/
  | startApp
  /-- the arm EXIT_APP, cmd 0xFB, 44_dispatch.md rule R272 -/
  | exitApp
  /-- the arm CUR_APP_INFO, cmd 0xFC, 44_dispatch.md rule R274 -/
  | curAppInfo
  /-- the arm APP_INFO, cmd 0xFD, 44_dispatch.md rule R276 -/
  | appInfo
  /-- the arm KEY, cmd 0xFE, 44_dispatch.md rule R280 -/
  | key
  /-- the arm TOUCH, cmd 0xFF, 44_dispatch.md rule R280 -/
  | touch
  /-- the arm of the application ids 0x00..0x7F, 44_dispatch.md rule R281 -/
  | appCmd00 (cmd : Byte)
  /-- the arm of the application ids 0x80..0xBF, 44_dispatch.md rule R281 -/
  | appCmd80 (cmd : Byte)
  /-- the arm of the application ids 0xC0..0xC7, 44_dispatch.md rule R281 -/
  | appCmdC0 (cmd : Byte)
  /-- the arm of the reserved ids 0xC8..0xCF, 44_dispatch.md rule R281 -/
  | reservedC8 (cmd : Byte)
  /-- the arm of the reserved ids 0xD0..0xDF, 44_dispatch.md rule R281 -/
  | reservedD0 (cmd : Byte)
  /-- the arm of the reserved ids 0xE0..0xEF, 44_dispatch.md rule R281 -/
  | reservedE0 (cmd : Byte)
  /-- the arm of the reserved ids 0xF0..0xF7, 44_dispatch.md rule R281 -/
  | reservedF0 (cmd : Byte)
  /-- a frame with bit 7 of flags clear: a request, dispatched on cmd, 30_encoding.md rule R106 -/
  | frameRequest (flags : Byte)
  /-- a frame with bit 7 of flags set: a response or report, never dispatched, 44_dispatch.md rule R282 -/
  | frameResponse (flags : Byte)
  deriving DecidableEq, Repr

end Sys2Proof
end

