-- ==== Sys2Proof/Machine/State.lean ====
section
/-! DEFINITION. The state of the engine (10_state.md rule R30), the configuration it was constructed with, and the inputs
and outputs of its steps (00_scope.md rule R8, 10_state.md rules R44 to R46), all plain data. -/

namespace Sys2Proof.Machine

/-- The status codes 0 to 8 (60_exceptions.md rule R320); 9 to 15 are never produced. -/
inductive Status where
  | ok
  | argsError
  | bufferFull
  | incomplete
  | notFound
  | notHandled
  | ioError
  | illegalOp
  | noMessage
  deriving DecidableEq, Repr

/-- The reason sub-codes by name (60_exceptions.md rule R321). `none` is code 0, also called REPLIED_OK. -/
inductive Reason where
  | none
  | repliedErr
  | version
  | capacity
  | length
  | replyTooBig
  | badIndex
  | noMagic
  | crc
  | badLength
  | badVersion
  | response
  | unrecognized
  | passThrough
  | writeError
  | shortWrite
  deriving DecidableEq, Repr

/-- The stored fields of STATUS: LAST and REASON (10_state.md rule R38). Bits 8 to 10 are copies of other state. -/
structure StatusReg where
  /-- LAST, the status code of the last operation -/
  last : Status
  /-- REASON, the reason sub-code of the last operation -/
  reason : Reason
  deriving DecidableEq, Repr

/-- The Message record (10_state.md rule R40). -/
structure Message where
  /-- the raw flags_version byte -/
  flags : Byte
  /-- the cmd byte -/
  cmd : Byte
  /-- the body; for an error frame it starts with the error-code byte -/
  body : Bytes
  /-- set by DISPATCH when a reply was sent (rule R42) -/
  hasBeenReplied : Bool
  deriving DecidableEq, Repr

/-- The reset value of `msg` (10_state.md rule R50). -/
def Message.cleared : Message := { flags := 0#8, cmd := 0#8, body := [], hasBeenReplied := false }

/-- A record of the registry's `list_apps()` answer (10_state.md rule R44). The engine never reads `executableRef`. -/
structure AppRecord where
  id : Bytes
  name : Bytes
  description : Bytes
  executableRef : Bytes
  deriving DecidableEq, Repr

/-- The answer of `switch_app` and `request_exit`: `ok`, or `err(e)` with an 8-bit code (10_state.md rule R44). -/
inductive AgentResult where
  | ok
  | err (code : Byte)
  deriving DecidableEq, Repr

/-- The answer of `sink_write(f)`: a number of bytes, or Error (10_state.md rule R45). `all` is the answer `n = |f|`
(log entry 16). -/
inductive SinkAnswer where
  | all
  | count (n : Nat)
  | error
  deriving DecidableEq, Repr

/-- The external agents' answers during one operation: inputs of the step (00_scope.md rule R8, 60_exceptions.md rule
R345). Each query is made at most once in an operation (44_dispatch.md rule R284), so one answer each is enough. -/
structure Env where
  /-- the answer of `list_apps()` -/
  apps : List AppRecord
  /-- the answer of `switch_app(target, arg)`, which no rule consults (44_dispatch.md rule R270) -/
  switchResult : AgentResult
  /-- the answer of `request_exit()` -/
  exitResult : AgentResult
  /-- the answer of `current_app_id()` -/
  currentApp : Bytes
  /-- the answer of `sink_write(f)` -/
  sink : SinkAnswer
  deriving DecidableEq, Repr

/-- The target of `switch_app` (10_state.md rule R44). -/
inductive Target where
  | index (k : Byte)
  | id (s : Bytes)
  deriving DecidableEq, Repr

/-- A call of the engine to an external agent (00_scope.md rule R15), with what it hands over. -/
inductive AgentCall where
  | listApps
  | switchApp (target : Target) (arg : Bytes)
  | requestExit
  | currentAppId
  | sinkWrite (frame : Bytes)
  deriving DecidableEq, Repr

/-- The results part of a response (30_encoding.md rule R116). -/
inductive Result where
  /-- no result -/
  | none
  /-- the frame of an ENCODE-family operation -/
  | frame (f : Bytes)
  /-- DECODE_AT: Found(Message, consumed) -/
  | found (m : Message) (consumed : Nat)
  /-- DECODE_AT: NotFound(skip) -/
  | notFound (skip : Nat)
  /-- DECODE_AT: Incomplete -/
  | incomplete
  /-- TRY_DECODE: the Message's flags, cmd and body -/
  | message (flags cmd : Byte) (body : Bytes)
  /-- DISPATCH: the replied bit -/
  | replied (b : Bool)
  /-- RDREG: the register's value -/
  | value (v : Word)
  deriving DecidableEq, Repr

/-- A response `(status, reason, results)` (10_state.md rule R46). -/
structure Response where
  status : Status
  reason : Reason
  result : Result
  deriving DecidableEq, Repr

/-- The inputs of one step: the host's request, and the external agents' answers while it runs (00_scope.md rules R8,
R10). -/
structure Input where
  request : Request
  env : Env
  deriving DecidableEq, Repr

/-- The state. `cfgMagic` to `exitReq` are the engine's own state (10_state.md rule R30); `cfg` is its configuration
(00_scope.md rule R9, log entry 1); `inputs` to `calls` are the model's fields for the inputs and outputs of steps (log
entries 6 to 9). -/
structure State where
  /-- the parameters the engine was constructed with; no step changes them -/
  cfg : Config
  /-- `cfg_magic` -/
  cfgMagic : Word
  /-- `acc`, the receive accumulator; the byte at address 0 is the oldest -/
  acc : Bytes
  /-- `msg_valid` -/
  msgValid : Bool
  /-- `msg` -/
  msg : Message
  /-- `status` -/
  status : StatusReg
  /-- `last_skip` -/
  lastSkip : Word
  /-- `exit_req`, also the level of the EXIT_REQ output -/
  exitReq : Bool
  /-- the host's operations still to be taken, in the order the host issues them -/
  inputs : List Input
  /-- the external agents' answers for the operation in progress -/
  env : Env
  /-- the response of the last operation -/
  response : Option Response
  /-- the calls to external agents made so far, oldest first -/
  calls : List AgentCall
  deriving DecidableEq, Repr

/-- Why the machine stops with a fault: an answer that breaks an external agent's duty, which has no defined behaviour
(60_exceptions.md rule R345, 93_implementation_defined.md item 18). Each is safe: the model stops, whatever the
hardware does. -/
inductive Fault where
  /-- `list_apps()` answered more than 255 records; raised by every arm that calls it; safe -/
  | tooManyApps
  /-- a 0x00 inside an id, name or description of `list_apps()`, or inside the answer of `current_app_id()`; raised by
  the arms that call them; safe -/
  | nulInString
  /-- `sink_write(f)` answered `n > |f|`; raised when a reply is sent; safe -/
  | sinkOverrun
  deriving DecidableEq, Repr

/-- Why the machine has no meaning for an instruction. No instruction raises it: every one has its meaning. -/
inductive Refusal where
  /-- an instruction without a meaning yet, rejected by name in exec's arm; none is left; safe -/
  | notModelled (mnemonic : String)
  deriving DecidableEq, Repr

/-- The external agents' answers a fresh engine holds. No operation has run, so no rule gives them; a step replaces them
by its own inputs (DESIGN CHOICE, log entry 7). -/
def Env.initial : Env :=
  { apps := [], switchResult := .ok, exitResult := .ok, currentApp := [], sink := .error }

/-- The state right after reset (10_state.md rule R50, 70_reset_and_hazards.md rule R370), constructed in the
default ERR_LEN_MODE with the other parameters free, and with no host operation issued, no response returned and no call made. -/
def State.reset : State :=
  { cfg := Config.construction
    cfgMagic := Config.defaultMagic
    acc := []
    msgValid := false
    msg := Message.cleared
    status := { last := .ok, reason := .none }
    lastSkip := 0#32
    exitReq := false
    inputs := []
    env := Env.initial
    response := Option.none
    calls := [] }

end Sys2Proof.Machine
end

