-- ==== Sys2Proof/Machine/Crc.lean ====
section
/-! DEFINITION. The CRC-16/ARC generator and checker (40_crc.md). -/

namespace Sys2Proof.Machine

/-- One of the 8 repetitions for a byte: shift right, and XOR 0xA001 in when bit 0 was 1 (40_crc.md rule R140). -/
def crcBit (c : BitVec 16) : BitVec 16 := if c.getLsbD 0 then (c >>> 1) ^^^ 0xA001#16 else c >>> 1

/-- One byte: XOR it into the low end, then the step of one bit 8 times (40_crc.md rule R140). -/
def crcByte (c : BitVec 16) (b : Byte) : BitVec 16 :=
  crcBit (crcBit (crcBit (crcBit (crcBit (crcBit (crcBit (crcBit (c ^^^ b.setWidth 16))))))))

/-- `crc16(b)`, from 0x0000, with no step after the last byte (40_crc.md rules R140 to R142). -/
def crc16 (b : Bytes) : BitVec 16 := b.foldl crcByte 0x0000#16

end Sys2Proof.Machine
end

