-- ==== Sys2Proof/WellFormed.lean ====
section
/-! DEFINITION. Which instructions an encoding stands for: a row that covers a range of bytes carries a byte of that range
(spec/opcode_table.json), and a frame kind carries a flags byte of its kind with version 1 (30_encoding.md rules R104,
R108). Every other argument is valid at every value of its type (30_encoding.md rule R116). -/

namespace Sys2Proof

/-- `b` lies in the range `lo .. hi` of byte values. -/
def byteIn (lo hi : Nat) (b : Byte) : Bool := decide (lo ≤ b.toNat) && decide (b.toNat ≤ hi)

/-- The version field, bits 1..0 of a flags byte, is PROTO_VERSION (30_encoding.md rule R108). -/
def versionOk (flags : Byte) : Bool := decide (flags.extractLsb' 0 2 = Config.protoVersion)

namespace Instr

/-- The instruction is one that its row of spec/opcode_table.json encodes. -/
def wf : Instr → Bool
  | .init _ => true
  | .encode _ _ _ _ _ _ => true
  | .encRespOk _ _ _ => true
  | .encReport _ _ _ => true
  | .encRespErr _ _ _ _ => true
  | .decodeAt _ _ => true
  | .push _ => true
  | .tryDecode => true
  | .dispatch => true
  | .rdreg _ => true
  | .illegal0A b => byteIn 0x0A 0x0B b
  | .illegal0C b => byteIn 0x0C 0x0F b
  | .illegal10 b => byteIn 0x10 0x1F b
  | .illegal20 b => byteIn 0x20 0x3F b
  | .illegal40 b => byteIn 0x40 0x7F b
  | .illegal80 b => byteIn 0x80 0xFF b
  | .setReport => true
  | .appList => true
  | .startApp => true
  | .exitApp => true
  | .curAppInfo => true
  | .appInfo => true
  | .key => true
  | .touch => true
  | .appCmd00 c => byteIn 0x00 0x7F c
  | .appCmd80 c => byteIn 0x80 0xBF c
  | .appCmdC0 c => byteIn 0xC0 0xC7 c
  | .reservedC8 c => byteIn 0xC8 0xCF c
  | .reservedD0 c => byteIn 0xD0 0xDF c
  | .reservedE0 c => byteIn 0xE0 0xEF c
  | .reservedF0 c => byteIn 0xF0 0xF7 c
  | .frameRequest f => !f.getLsbD 7 && versionOk f
  | .frameResponse f => f.getLsbD 7 && versionOk f

end Instr

end Sys2Proof
end

