-- ==== Sys2Proof/Decode.lean ====
section
/-! DEFINITION. Decoding: the host command byte (30_encoding.md rules R115 to R117), a frame's cmd byte (rules R109 to R111)
and a frame's flags_version byte (rules R104, R106, R108), each as spec/opcode_table.json lists it; and the encoder.
Log entry 11 says why the three formats are decoded apart. -/

namespace Sys2Proof

/-- Why a byte is no encoding of any row. -/
inductive Reject where
  /-- a flags_version byte whose version field is 0, 2 or 3 (30_encoding.md rule R108) -/
  | badVersion (flags : Byte)
  deriving DecidableEq, Repr

/-- The row of a reserved host command byte: OP 0xA..0xF, or bits 7..4 not 0000 (30_encoding.md rule R117). -/
def decodeReservedOp (b : Byte) : Instr :=
  if b.toNat ≤ 0x0B then .illegal0A b
  else if b.toNat ≤ 0x0F then .illegal0C b
  else if b.toNat ≤ 0x1F then .illegal10 b
  else if b.toNat ≤ 0x3F then .illegal20 b
  else if b.toNat ≤ 0x7F then .illegal40 b
  else .illegal80 b

/-- The instruction of a host request: OP in bits 3..0 with bits 7..4 zero, and the arguments that 30_encoding.md rule
R116 lists for the OP. Every byte is a row of the table, so nothing is rejected here. -/
def decodeHost (r : Request) : Instr :=
  match r.op.toNat with
  | 0x00 => .init r.args.magic
  | 0x01 => .encode r.args.cmd r.args.flags r.args.bytes r.args.err r.args.version r.args.dstCap
  | 0x02 => .encRespOk r.args.cmd r.args.bytes r.args.dstCap
  | 0x03 => .encReport r.args.cmd r.args.bytes r.args.dstCap
  | 0x04 => .encRespErr r.args.cmd r.args.code r.args.bytes r.args.dstCap
  | 0x05 => .decodeAt r.args.bytes r.args.magic
  | 0x06 => .push r.args.bytes
  | 0x07 => .tryDecode
  | 0x08 => .dispatch
  | 0x09 => .rdreg r.args.index
  | _ => decodeReservedOp r.op

/-- The arm a request's cmd byte selects: the assigned ids of 30_encoding.md rule R110, else the range the id lies in
(rules R109, R111). -/
def decodeCmd (b : Byte) : Instr :=
  if b.toNat ≤ 0x7F then .appCmd00 b
  else if b.toNat ≤ 0xBF then .appCmd80 b
  else if b.toNat ≤ 0xC7 then .appCmdC0 b
  else if b.toNat ≤ 0xCF then .reservedC8 b
  else if b.toNat ≤ 0xDF then .reservedD0 b
  else if b.toNat ≤ 0xEF then .reservedE0 b
  else if b.toNat ≤ 0xF7 then .reservedF0 b
  else if b.toNat = 0xF8 then .setReport
  else if b.toNat = 0xF9 then .appList
  else if b.toNat = 0xFA then .startApp
  else if b.toNat = 0xFB then .exitApp
  else if b.toNat = 0xFC then .curAppInfo
  else if b.toNat = 0xFD then .appInfo
  else if b.toNat = 0xFE then .key
  else .touch

/-- The frame kind of a flags_version byte: bit 7 alone decides (30_encoding.md rules R104, R106); a version other than
1 is invalid (rule R108). -/
def decodeFlags (b : Byte) : Except Reject Instr :=
  if versionOk b then .ok (if b.getLsbD 7 then .frameResponse b else .frameRequest b)
  else .error (.badVersion b)

/-- The decoder of the three formats of spec/opcode_table.json. -/
def decode : Code → Except Reject Instr
  | .host r => .ok (decodeHost r)
  | .cmd b => .ok (decodeCmd b)
  | .flags b => decodeFlags b

/-- The encoding of an instruction, written from 30_encoding.md rules R104, R109, R110, R115, R116 and R117. A host
request carries the operation's own arguments and zeros elsewhere. -/
def encode : Instr → Code
  | .init magic => .host ⟨0x00#8, { Args.zero with magic := magic }⟩
  | .encode cmd flags body err version dstCap =>
    .host ⟨0x01#8, { Args.zero with cmd := cmd, flags := flags, bytes := body, err := err, version := version, dstCap := dstCap }⟩
  | .encRespOk cmd body dstCap => .host ⟨0x02#8, { Args.zero with cmd := cmd, bytes := body, dstCap := dstCap }⟩
  | .encReport cmd body dstCap => .host ⟨0x03#8, { Args.zero with cmd := cmd, bytes := body, dstCap := dstCap }⟩
  | .encRespErr cmd code message dstCap =>
    .host ⟨0x04#8, { Args.zero with cmd := cmd, code := code, bytes := message, dstCap := dstCap }⟩
  | .decodeAt buffer magic => .host ⟨0x05#8, { Args.zero with bytes := buffer, magic := magic }⟩
  | .push data => .host ⟨0x06#8, { Args.zero with bytes := data }⟩
  | .tryDecode => .host ⟨0x07#8, Args.zero⟩
  | .dispatch => .host ⟨0x08#8, Args.zero⟩
  | .rdreg index => .host ⟨0x09#8, { Args.zero with index := index }⟩
  | .illegal0A b => .host ⟨b, Args.zero⟩
  | .illegal0C b => .host ⟨b, Args.zero⟩
  | .illegal10 b => .host ⟨b, Args.zero⟩
  | .illegal20 b => .host ⟨b, Args.zero⟩
  | .illegal40 b => .host ⟨b, Args.zero⟩
  | .illegal80 b => .host ⟨b, Args.zero⟩
  | .setReport => .cmd 0xF8#8
  | .appList => .cmd 0xF9#8
  | .startApp => .cmd 0xFA#8
  | .exitApp => .cmd 0xFB#8
  | .curAppInfo => .cmd 0xFC#8
  | .appInfo => .cmd 0xFD#8
  | .key => .cmd 0xFE#8
  | .touch => .cmd 0xFF#8
  | .appCmd00 c => .cmd c
  | .appCmd80 c => .cmd c
  | .appCmdC0 c => .cmd c
  | .reservedC8 c => .cmd c
  | .reservedD0 c => .cmd c
  | .reservedE0 c => .cmd c
  | .reservedF0 c => .cmd c
  | .frameRequest f => .flags f
  | .frameResponse f => .flags f

/-- The byte an encoding puts in the table's eight bits. -/
def Code.byte : Code → Byte
  | .host r => r.op
  | .cmd b => b
  | .flags b => b

/-- The host request a table word stands for: the low `nbits` bits of `w` are the host command byte, and every argument
is zero, none or empty (log entry 12). -/
def tableRequest (nbits w : Nat) : Request := ⟨BitVec.ofNat 8 (w % 2 ^ nbits), Args.zero⟩

/-- The instruction the host command byte `w` stands for. The eight bits of a CMD or FLAGS row are a frame's byte, not a
command the host can issue, and all 256 host command bytes are HOSTOP rows (30_encoding.md rules R116, R117): such a
word read here is the host command of the same number (log entry 11). `decode` reads those rows in their own format. -/
def decodeTableWord (nbits w : Nat) : Option Instr := (decode (.host (tableRequest nbits w))).toOption

end Sys2Proof
end

