-- ==== Sys2Proof/Machine/Operands.lean ====
section
/-! DEFINITION. The forms of operands and data: slices and byte order of byte strings (00_scope.md rules R12, R13), strings
in bodies (30_encoding.md rule R114, 44_dispatch.md rules R265, R268) and lookups in the registry's answer (rule R275). -/

namespace Sys2Proof.Machine

/-- `b[j..k)`, the half-open slice; empty when `k ≤ j` (00_scope.md rule R12). -/
def slice (b : Bytes) (j k : Nat) : Bytes := (b.take k).drop j

/-- `b[k]` (00_scope.md rule R12). No rule reads past the end (20_memory.md rule R73); the byte there would read 0. -/
def byteAt (b : Bytes) (k : Nat) : Byte := b.getD k 0#8

/-- `le32(v)` (00_scope.md rule R13). -/
def le32 (v : Word) : Bytes :=
  [v.extractLsb' 0 8, v.extractLsb' 8 8, v.extractLsb' 16 8, v.extractLsb' 24 8]

/-- `le16(v)` (00_scope.md rule R13). -/
def le16 (v : BitVec 16) : Bytes := [v.extractLsb' 0 8, v.extractLsb' 8 8]

/-- `rd_le32(b, k)`, an unsigned natural (00_scope.md rules R11, R13). -/
def rdLe32 (b : Bytes) (k : Nat) : Nat :=
  (byteAt b k).toNat + 256 * (byteAt b (k + 1)).toNat + 65536 * (byteAt b (k + 2)).toNat
    + 16777216 * (byteAt b (k + 3)).toNat

/-- `rd_le16(b, k)`, an unsigned natural (00_scope.md rules R11, R13). -/
def rdLe16 (b : Bytes) (k : Nat) : Nat := (byteAt b k).toNat + 256 * (byteAt b (k + 1)).toNat

/-- A NUL-terminated string: the bytes of `s` and then 0x00 (30_encoding.md rule R114). -/
def cstr (s : Bytes) : Bytes := s ++ [0x00#8]

/-- The loop of `split_nul` with its locals `cur` and `toks` (44_dispatch.md rule R268). -/
def splitNulFrom (cur : Bytes) (toks : List Bytes) : Bytes → Option (List Bytes)
  | [] => if cur = [] then some toks else none
  | b :: r => if b = 0x00#8 then splitNulFrom [] (toks ++ [cur]) r else splitNulFrom (cur ++ [b]) toks r

/-- `split_nul(r)`; `none` is MALFORMED (44_dispatch.md rule R268). -/
def splitNul (r : Bytes) : Option (List Bytes) := splitNulFrom [] [] r

/-- The string `k` of a token list, or ε when there is none (44_dispatch.md rule R269). -/
def tokenAt (toks : List Bytes) (k : Nat) : Bytes := toks.getD k []

/-- The least `j` with `apps[j].id = s` (44_dispatch.md rules R274, R275, R276). -/
def findApp (apps : List AppRecord) (s : Bytes) : Option Nat := apps.findIdx? (fun a => decide (a.id = s))

/-- The string holds no 0x00 (44_dispatch.md rule R265). -/
def noNul (s : Bytes) : Bool := s.all (fun b => decide (b ≠ 0x00#8))

/-- No string of the record that a reply can carry holds a 0x00 (60_exceptions.md rule R345). -/
def appClean (a : AppRecord) : Bool := noNul a.id && noNul a.name && noNul a.description

end Sys2Proof.Machine
end

