-- ==== Sys2Proof/Machine/Flags.lean ====
section
/-! DEFINITION. Flags and status: the flag constants and derived fields of a flags byte (30_encoding.md rule R105, 10_state.md
rule R41), the numbers of the status and reason codes (60_exceptions.md rules R320, R321) and the registers' contents
(10_state.md rules R35 to R39, R47). -/

namespace Sys2Proof.Machine

/-- REQ (30_encoding.md rule R105). -/
def flagReq : Byte := 0x00#8
/-- RESP (30_encoding.md rule R105). -/
def flagResp : Byte := 0x80#8
/-- RESP_OK (30_encoding.md rule R105). -/
def flagRespOk : Byte := 0x40#8
/-- RESP_ERR (30_encoding.md rule R105). -/
def flagRespErr : Byte := 0x00#8
/-- REPORT (30_encoding.md rule R105). -/
def flagReport : Byte := 0x20#8

/-- RESP|RESP_OK, the flags of an ok response (41_framer.md rule R170). -/
def flagsOkResponse : Byte := flagResp ||| flagRespOk
/-- RESP|RESP_OK|REPORT, the flags of a report (41_framer.md rule R171). -/
def flagsReport : Byte := flagResp ||| flagRespOk ||| flagReport
/-- RESP|RESP_ERR, the flags of an error response (41_framer.md rule R172). -/
def flagsErrResponse : Byte := flagResp ||| flagRespErr

/-- `is_response = flags[7]` (10_state.md rule R41). -/
def Message.isResponse (m : Message) : Bool := m.flags.getLsbD 7
/-- `is_request = not flags[7]` (10_state.md rule R41). -/
def Message.isRequest (m : Message) : Bool := !m.flags.getLsbD 7
/-- `resp_ok = flags[6]`, meaningful only when is_response (10_state.md rule R41). -/
def Message.respOk (m : Message) : Bool := m.flags.getLsbD 6
/-- `is_report = flags[5]` (10_state.md rule R41). -/
def Message.isReport (m : Message) : Bool := m.flags.getLsbD 5
/-- `version = flags[1:0]` (10_state.md rule R41). -/
def Message.version (m : Message) : BitVec 2 := m.flags.extractLsb' 0 2

/-- The number of a status (60_exceptions.md rule R320). -/
def Status.code : Status → BitVec 4
  | .ok => 0#4
  | .argsError => 1#4
  | .bufferFull => 2#4
  | .incomplete => 3#4
  | .notFound => 4#4
  | .notHandled => 5#4
  | .ioError => 6#4
  | .illegalOp => 7#4
  | .noMessage => 8#4

/-- The number of a reason (60_exceptions.md rule R321). -/
def Reason.code : Reason → BitVec 4
  | .none => 0#4
  | .repliedErr => 1#4
  | .version => 1#4
  | .capacity => 2#4
  | .length => 3#4
  | .replyTooBig => 4#4
  | .badIndex => 5#4
  | .noMagic => 1#4
  | .crc => 2#4
  | .badLength => 3#4
  | .badVersion => 4#4
  | .response => 1#4
  | .unrecognized => 2#4
  | .passThrough => 3#4
  | .writeError => 1#4
  | .shortWrite => 2#4

/-- The status and reason pairs of 60_exceptions.md rule R321's table. -/
def legalStatus : Status → Reason → Bool
  | .ok, .none => true
  | .ok, .repliedErr => true
  | .argsError, .version => true
  | .argsError, .capacity => true
  | .argsError, .length => true
  | .argsError, .replyTooBig => true
  | .argsError, .badIndex => true
  | .bufferFull, .none => true
  | .incomplete, .none => true
  | .notFound, .noMagic => true
  | .notFound, .crc => true
  | .notFound, .badLength => true
  | .notFound, .badVersion => true
  | .notHandled, .response => true
  | .notHandled, .unrecognized => true
  | .notHandled, .passThrough => true
  | .ioError, .writeError => true
  | .ioError, .shortWrite => true
  | .illegalOp, .none => true
  | .noMessage, .none => true
  | _, _ => false

/-- The STATUS register: LAST in bits 3..0, REASON in 7..4, MSG_VALID 8, MSG_REPLIED 9, EXIT_REQ 10, zeros above. Bits
8 to 10 are the current values of the state they copy (10_state.md rule R38). -/
def statusWord (s : State) : Word :=
  0#21 ++ BitVec.ofBool s.exitReq ++ BitVec.ofBool s.msg.hasBeenReplied ++ BitVec.ofBool s.msgValid
    ++ s.status.reason.code ++ s.status.last.code

/-- The VERSION register: bits 1..0 are PROTO_VERSION, the others zero (10_state.md rule R36). -/
def versionWord : Word := 0#30 ++ Config.protoVersion

/-- The CTRL register: bit 0 is ERR_LEN_MODE, 0 = EXACT, 1 = LEGACY, the others zero (10_state.md rule R37). -/
def ctrlWord (c : Config) : Word :=
  match c.errLenMode with
  | .exact => 0#32
  | .legacy => 1#32

/-- The contents of the register of an index, or none for the reserved indices 0x0A to 0xFF (10_state.md rule R47). -/
def registerAt (s : State) (index : Byte) : Option Word :=
  match index.toNat with
  | 0x00 => some s.cfgMagic
  | 0x01 => some (BitVec.ofNat 32 s.cfg.accCapacity)
  | 0x02 => some versionWord
  | 0x03 => some (ctrlWord s.cfg)
  | 0x04 => some (BitVec.ofNat 32 s.acc.length)
  | 0x05 => some (statusWord s)
  | 0x06 => some s.lastSkip
  | 0x07 => some (s.msg.flags.setWidth 32)
  | 0x08 => some (s.msg.cmd.setWidth 32)
  | 0x09 => some (BitVec.ofNat 32 s.msg.body.length)
  | _ => none

end Sys2Proof.Machine
end

