-- ==== Sys2Proof/Machine/Ops.lean ====
section
/-! DEFINITION. The named operations over the state: one update for each piece of state, the accumulator's reads and
discard (00_scope.md rule R14), how an operation completes or raises a status (00_scope.md rule R14, 10_state.md rule
R46), the queries to external agents (10_state.md rules R44, R45, 60_exceptions.md rule R345) and how the engine takes
the host's next operation. -/

namespace Sys2Proof.Machine

/-- The outcome of an operation. -/
abbrev Out := Host.Outcome State Fault Refusal

/-! ## Updates -/

/-- `cfg_magic <- m` -/
def State.setMagic (s : State) (m : Word) : State := { s with cfgMagic := m }
/-- `acc <- b` -/
def State.setAcc (s : State) (b : Bytes) : State := { s with acc := b }
/-- `msg <- m; msg_valid <- 1` (43_accumulator.md rule R236) -/
def State.loadMsg (s : State) (m : Message) : State := { s with msgValid := true, msg := m }
/-- `msg_valid <- 0`, and with it `msg` at its reset value (10_state.md rule R40, 43_accumulator.md rule R237) -/
def State.clearMsg (s : State) : State := { s with msgValid := false, msg := Message.cleared }
/-- `msg.has_been_replied <- 1` (10_state.md rule R42) -/
def State.markReplied (s : State) : State := { s with msg := { s.msg with hasBeenReplied := true } }
/-- `status <- (st, r)` (10_state.md rule R38) -/
def State.setStatus (s : State) (st : Status) (r : Reason) : State := { s with status := ⟨st, r⟩ }
/-- `last_skip <- n`, into 32 bits (10_state.md rule R39; log entry 15) -/
def State.setLastSkip (s : State) (n : Nat) : State := { s with lastSkip := BitVec.ofNat 32 n }
/-- `exit_req <- b` (10_state.md rule R43) -/
def State.setExitReq (s : State) (b : Bool) : State := { s with exitReq := b }
/-- The response the host is given (10_state.md rule R46) -/
def State.setResponse (s : State) (st : Status) (r : Reason) (res : Result) : State :=
  { s with response := some ⟨st, r, res⟩ }
/-- One more call to an external agent (00_scope.md rule R15) -/
def State.logCall (s : State) (c : AgentCall) : State := { s with calls := s.calls ++ [c] }

/-! ## The accumulator space -/

/-- `MemRead(addr, n)`, `acc[addr..addr+n)`, formed only inside the data (00_scope.md rule R14, 20_memory.md rule R70):
no value where `addr + n > |acc|`. -/
def memRead (s : State) (addr n : Nat) : Option Bytes :=
  if addr + n ≤ s.acc.length then some (slice s.acc addr (addr + n)) else none

/-- The byte at an address of the accumulator space; an address at or past `|acc|` holds none (20_memory.md rule R70). -/
def memByte (s : State) (addr : Nat) : Option Byte := s.acc[addr]?

/-- The accumulator space as (address, byte) pairs (20_memory.md rule R70; log entry 10). -/
def State.memory (s : State) : List Host.Cell := s.acc.zipIdx.map (fun p => (p.2, p.1))

/-- The canonical form of a memory: addresses strictly rising. No listed byte equals what an unlisted address reads as,
because an unlisted address reads as no value. -/
abbrev memoryWf (m : List Host.Cell) : Prop := m.Pairwise (fun p q => p.1 < q.1)

/-- Prefix discard: `acc <- acc[k..|acc|)` (43_accumulator.md rule R236). -/
def State.discard (s : State) (k : Nat) : State := s.setAcc (slice s.acc k s.acc.length)

/-! ## How an operation ends -/

/-- The operation completes: STATUS takes the status and reason, and the host is given the response (10_state.md rule
R46). -/
def respond (s : State) (st : Status) (r : Reason) (res : Result) : Out :=
  .next ((s.setStatus st r).setResponse st r res)

/-- `raise st(r)`: the operation ends with the status and no result, and makes only the state writes made before it
(00_scope.md rule R14). This is the engine's one way to report an error: it has no trap (60_exceptions.md rule R331). -/
def raise (s : State) (st : Status) (r : Reason) : Out := respond s st r .none

/-- RDREG's end: a response, and no write of the engine's state, not even STATUS (43_accumulator.md rule R240). -/
def respondOnly (s : State) (st : Status) (r : Reason) (res : Result) : Out := .next (s.setResponse st r res)

/-! ## Queries to external agents -/

/-- `list_apps()`. An answer of more than 255 records, or with a 0x00 inside a string, breaks the registry's duty
(60_exceptions.md rule R345). -/
def queryApps (s : State) (k : List AppRecord → State → Out) : Out :=
  if s.env.apps.length > 255 then .fault .tooManyApps
  else if s.env.apps.all appClean then k s.env.apps (s.logCall .listApps)
  else .fault .nulInString

/-- `current_app_id()`. An answer with a 0x00 inside breaks the registry's duty (60_exceptions.md rule R345). -/
def queryCurrentApp (s : State) (k : Bytes → State → Out) : Out :=
  if noNul s.env.currentApp then k s.env.currentApp (s.logCall .currentAppId) else .fault .nulInString

/-- `switch_app(target, arg)`; its Result is not consulted (44_dispatch.md rule R270). -/
def callSwitchApp (s : State) (target : Target) (arg : Bytes) : State := s.logCall (.switchApp target arg)

/-- `request_exit()` (44_dispatch.md rule R272). -/
def queryExit (s : State) (k : AgentResult → State → Out) : Out := k s.env.exitResult (s.logCall .requestExit)

/-- `sink_write(f)`, one call with the whole frame: `k` goes on with whether the write failed, fell short or was whole. An
answer `n > |f|` breaks the sink's duty (60_exceptions.md rule R345). -/
def sinkWrite (s : State) (f : Bytes) (k : Option Reason → State → Out) : Out :=
  match s.env.sink with
  | .error => k (some .writeError) (s.logCall (.sinkWrite f))
  | .all => k none (s.logCall (.sinkWrite f))
  | .count n =>
    if n > f.length then .fault .sinkOverrun
    else if n < f.length then k (some .shortWrite) (s.logCall (.sinkWrite f))
    else k none (s.logCall (.sinkWrite f))

/-- The frame of a call, if it is a `sink_write`. -/
def AgentCall.frame? : AgentCall → Option Bytes
  | .sinkWrite f => some f
  | _ => none

/-- The wire output: the byte strings passed to `sink_write`, in order (20_memory.md rules R70, R83). -/
def State.wire (s : State) : List Bytes := s.calls.filterMap AgentCall.frame?

/-! ## Taking the host's next operation -/

/-- The engine takes one host operation with the external agents' answers for it (00_scope.md rules R8, R10). -/
def State.accept (s : State) (inp : Input) (rest : List Input) : State := { s with inputs := rest, env := inp.env }

/-- The next host operation, decoded, and the state that has taken it; none when the host has issued no operation
(70_reset_and_hazards.md rule R371). -/
def fetch (s : State) : Option (Instr × State) :=
  match s.inputs with
  | [] => none
  | inp :: rest => some (decodeHost inp.request, s.accept inp rest)

end Sys2Proof.Machine
end

