-- ==== Sys2Proof/Machine/Deframer.lean ====
section
/-! DEFINITION. The deframer: the decode function and DECODE_AT (42_deframer.md). -/

namespace Sys2Proof.Machine

/-- The outcome of the decode function (42_deframer.md rule R190). -/
inductive Decoded where
  | found (m : Message) (consumed : Nat)
  | notFound (skip : Nat) (why : Reason)
  | incomplete
  deriving DecidableEq, Repr

/-- Header synchronization: the least `k` with `0 ≤ k ≤ n-4` and `buf[k..k+4) = le32(magic)` (42_deframer.md rule R192). -/
def findMagic (buf : Bytes) (magic : Word) : Option Nat :=
  (List.range (buf.length - 3)).find? (fun k => decide (slice buf k (k + 4) = le32 magic))

/-- The CRC check of a frame at `i` (40_crc.md rule R144, 42_deframer.md rule R196). -/
def crcMatches (buf : Bytes) (i dataLen : Nat) : Bool :=
  decide ((crc16 (slice buf i (i + 6 + dataLen))).toNat = rdLe16 buf (i + 6 + dataLen))

/-- The message of a frame at `i` (42_deframer.md rule R199). -/
def parseMessage (buf : Bytes) (i dataLen : Nat) : Message :=
  { flags := byteAt buf (i + 8)
    cmd := byteAt buf (i + 9)
    body := slice buf (i + 10) (i + 6 + dataLen)
    hasBeenReplied := false }

/-- The decode function from a magic found at `i` on: header complete, length present, length floor, CRC, version, in the
order of 42_deframer.md rule R190's pseudocode (90_conflicts.md C12). -/
def decodeFrom (buf : Bytes) (i : Nat) : Decoded :=
  if buf.length - i < 12 then .incomplete
  else if rdLe32 buf (i + 4) > buf.length - i - 8 then .incomplete
  else if rdLe32 buf (i + 4) < 4 then .notFound (i + 8 + rdLe32 buf (i + 4)) .badLength
  else if crcMatches buf i (rdLe32 buf (i + 4)) = false then
    .notFound (min (i + 8 + rdLe32 buf (i + 4)) buf.length) .crc
  else if versionOk (byteAt buf (i + 8)) = false then .notFound (i + 8 + rdLe32 buf (i + 4)) .badVersion
  else .found (parseMessage buf i (rdLe32 buf (i + 4))) (i + 8 + rdLe32 buf (i + 4))

/-- `decode_at(buf, magic)`, the whole deframer (42_deframer.md rule R190). -/
def decodeAt (buf : Bytes) (magic : Word) : Decoded :=
  if buf.length < 12 then .incomplete
  else
    match findMagic buf magic with
    | none => .notFound (buf.length - 3) .noMagic
    | some i => decodeFrom buf i

/-- DECODE_AT: the deframer on a buffer of the host, which touches neither `acc` nor the message register (42_deframer.md
rule R203). -/
def execDecodeAt (buffer : Bytes) (magic : Word) (s : State) : Out :=
  match decodeAt buffer magic with
  | .found m c => respond (s.setLastSkip 0) .ok .none (.found m c)
  | .notFound k why => respond (s.setLastSkip 0) .notFound why (.notFound k)
  | .incomplete => respond (s.setLastSkip 0) .incomplete .none .incomplete

end Sys2Proof.Machine
end

