-- ==== Sys2Proof/Machine/Accumulator.lean ====
section
/-! DEFINITION. The receive accumulator: INIT, PUSH, TRY_DECODE, RDREG (43_accumulator.md), and the reserved host command
bytes (60_exceptions.md rule R322). -/

namespace Sys2Proof.Machine

/-- INIT: construct or reconstruct the engine instance; every element of the engine's state is written
(43_accumulator.md rule R230). -/
def execInit (magic : Word) (s : State) : Out :=
  respond (((((s.setMagic magic).setAcc []).clearMsg).setLastSkip 0).setExitReq false) .ok .none .none

/-- PUSH: append the whole of `data`, or nothing when it would exceed ACC_CAPACITY (43_accumulator.md rule R233). -/
def execPush (data : Bytes) (s : State) : Out :=
  if s.acc.length + data.length > s.cfg.accCapacity then raise s .bufferFull .none
  else respond ((s.setAcc (s.acc ++ data)).setLastSkip 0) .ok .none .none

/-- TRY_DECODE: decode one frame from the accumulator and discard the consumed prefix (43_accumulator.md rules R235 to
R237). -/
def execTryDecode (s : State) : Out :=
  match decodeAt s.acc s.cfgMagic with
  | .found m c =>
    respond (((s.discard c).loadMsg m).setLastSkip c) .ok .none (.message m.flags m.cmd m.body)
  | .notFound k why =>
    respond (((if k > 0 then s.discard k else s).clearMsg).setLastSkip k) .notFound why .none
  | .incomplete => respond ((s.clearMsg).setLastSkip 0) .incomplete .none .none

/-- RDREG: read a register; a reserved index answers ARGS_ERROR in the response only, and no state is written
(43_accumulator.md rule R240). -/
def execRdreg (index : Byte) (s : State) : Out :=
  match registerAt s index with
  | some v => respondOnly s .ok .none (.value v)
  | none => respondOnly s .argsError .badIndex (.value 0#32)

/-- A reserved host command byte: ILLEGAL_OP, reason 0, and nothing but STATUS is written (60_exceptions.md rule R322). -/
def illegalOp (s : State) : Out := raise s .illegalOp .none

/-- Host command bytes 0x0A..0x0B (30_encoding.md rule R117). -/
def execIllegal0A (_byte : Byte) (s : State) : Out := illegalOp s
/-- Host command bytes 0x0C..0x0F (30_encoding.md rule R117). -/
def execIllegal0C (_byte : Byte) (s : State) : Out := illegalOp s
/-- Host command bytes 0x10..0x1F (30_encoding.md rule R117). -/
def execIllegal10 (_byte : Byte) (s : State) : Out := illegalOp s
/-- Host command bytes 0x20..0x3F (30_encoding.md rule R117). -/
def execIllegal20 (_byte : Byte) (s : State) : Out := illegalOp s
/-- Host command bytes 0x40..0x7F (30_encoding.md rule R117). -/
def execIllegal40 (_byte : Byte) (s : State) : Out := illegalOp s
/-- Host command bytes 0x80..0xFF (30_encoding.md rule R117). -/
def execIllegal80 (_byte : Byte) (s : State) : Out := illegalOp s

end Sys2Proof.Machine
end

