-- ==== Sys2Proof/Machine/Framer.lean ====
section
/-! DEFINITION. The framer: the frame encoder and the ENCODE family (41_framer.md). -/

namespace Sys2Proof.Machine

/-- The length field: the body and 4, and 1 more with an error code in EXACT mode (41_framer.md rule R162). -/
def lengthField (mode : ErrLenMode) (body : Bytes) (err : Option Byte) : Nat :=
  match err, mode with
  | none, _ => body.length + 4
  | some _, .exact => body.length + 5
  | some _, .legacy => body.length + 4

/-- The size of the frame: `|body| + 12`, 13 with an error code (41_framer.md rules R165, R167). -/
def frameSize (body : Bytes) (err : Option Byte) : Nat := body.length + 12 + if err.isSome then 1 else 0

/-- The frame before its CRC: magic, length, flags OR version, cmd, the error code if present, the body (41_framer.md
rules R160, R161, R163). -/
def frameHead (mode : ErrLenMode) (magic : Word) (cmd flags : Byte) (body : Bytes) (err : Option Byte)
    (version : Byte) : Bytes :=
  le32 magic ++ le32 (BitVec.ofNat 32 (lengthField mode body err)) ++ [flags ||| version] ++ [cmd] ++ err.toList ++ body

/-- A frame with its CRC appended, low byte first (40_crc.md rule R143). -/
def withCrc (f : Bytes) : Bytes := f ++ le16 (crc16 f)

/-- ENCODE's checks in order, version, capacity, length, and then the frame (41_framer.md rules R160, R164 to R166). It
answers the reason of ARGS_ERROR or the frame. -/
def encodeFrame (mode : ErrLenMode) (magic : Word) (cmd flags : Byte) (body : Bytes) (err : Option Byte)
    (version : Byte) (dstCap : Nat) : Except Reason Bytes :=
  if version ≠ Config.protoVersionByte then .error .version
  else if dstCap < frameSize body err then .error .capacity
  else if lengthField mode body err > 2 ^ 32 - 1 then .error .length
  else .ok (withCrc (frameHead mode magic cmd flags body err version))

/-- `encodeFrame` with this engine's magic and mode (43_accumulator.md rule R231). -/
def State.encodeWith (s : State) (cmd flags : Byte) (body : Bytes) (err : Option Byte) (version : Byte)
    (dstCap : Nat) : Except Reason Bytes :=
  encodeFrame s.cfg.errLenMode s.cfgMagic cmd flags body err version dstCap

/-- How an ENCODE-family operation ends: the frame, or ARGS_ERROR with its reason; only STATUS is written (41_framer.md
rule R168). -/
def finishEncode (s : State) (e : Except Reason Bytes) : Out :=
  match e with
  | .ok f => respond s .ok .none (.frame f)
  | .error r => raise s .argsError r

/-- ENCODE (41_framer.md rule R160). -/
def execEncode (cmd flags : Byte) (body : Bytes) (err : Option Byte) (version : Byte) (dstCap : Word) (s : State) : Out :=
  finishEncode s (s.encodeWith cmd flags body err version dstCap.toNat)

/-- ENC_RESP_OK: ENCODE with the flags RESP|RESP_OK, no error code, version 1 (41_framer.md rule R170). -/
def execEncRespOk (cmd : Byte) (body : Bytes) (dstCap : Word) (s : State) : Out :=
  finishEncode s (s.encodeWith cmd flagsOkResponse body none Config.protoVersionByte dstCap.toNat)

/-- ENC_REPORT: ENCODE with the flags RESP|RESP_OK|REPORT, no error code, version 1 (41_framer.md rule R171). -/
def execEncReport (cmd : Byte) (body : Bytes) (dstCap : Word) (s : State) : Out :=
  finishEncode s (s.encodeWith cmd flagsReport body none Config.protoVersionByte dstCap.toNat)

/-- ENC_RESP_ERR: ENCODE with the flags RESP|RESP_ERR, the error code and version 1 (41_framer.md rule R172). -/
def execEncRespErr (cmd code : Byte) (message : Bytes) (dstCap : Word) (s : State) : Out :=
  finishEncode s (s.encodeWith cmd flagsErrResponse message (some code) Config.protoVersionByte dstCap.toNat)

/-- The text of the FALLBACK reply, "Unsupported command" (60_exceptions.md rule R348). -/
def fallbackText : Bytes :=
  [0x55#8, 0x6E#8, 0x73#8, 0x75#8, 0x70#8, 0x70#8, 0x6F#8, 0x72#8, 0x74#8, 0x65#8, 0x64#8, 0x20#8, 0x63#8, 0x6F#8,
    0x6D#8, 0x6D#8, 0x61#8, 0x6E#8, 0x64#8]

/-- FALLBACK cmd: the operation a host issues to answer an unreplied request (30_encoding.md rule R120, 60_exceptions.md
rule R348). It is a host-side sequence, not an operation of its own. -/
def fallbackInstr (c : Config) (cmd : Byte) (cap : Word) : Instr := .encRespErr cmd c.errcodeArgs fallbackText cap

end Sys2Proof.Machine
end

