-- ==== Sys2Proof/Machine/Dispatcher.lean ====
section
/-! DEFINITION. The command dispatch multiplexer: reply emission, the arms, and DISPATCH (44_dispatch.md). -/

namespace Sys2Proof.Machine

/-! ## Reply emission (44_dispatch.md rule R262) -/

/-- DISPATCH ends: STATUS, and the replied bit as `msg.has_been_replied` now is (44_dispatch.md rule R261). -/
def finishDispatch (s : State) (st : Status) (r : Reason) : Out := respond s st r (.replied s.msg.hasBeenReplied)

/-- `send(e)`: a reply that does not fit is not sent; else one `sink_write` of the whole frame, `has_been_replied` set
whatever the write answers, and the status of the write. `r` is the reason of a whole write (44_dispatch.md rule R262). -/
def send (s : State) (e : Except Reason Bytes) (r : Reason) : Out :=
  match e with
  | .error _ => finishDispatch s .argsError .replyTooBig
  | .ok f => sinkWrite s f (fun failure s1 =>
      match failure with
      | some why => finishDispatch s1.markReplied .ioError why
      | none => finishDispatch s1.markReplied .ok r)

/-- `reply_ok(body)` (44_dispatch.md rules R262, R264). -/
def replyOk (s : State) (body : Bytes) : Out :=
  send s (s.encodeWith s.msg.cmd flagsOkResponse body none Config.protoVersionByte s.cfg.replyCap) .none

/-- `reply_err(code, site)` (44_dispatch.md rules R262, R264). -/
def replyErr (s : State) (code : Byte) (site : Site) : Out :=
  send s (s.encodeWith s.msg.cmd flagsErrResponse (s.cfg.errMsg site) (some code) Config.protoVersionByte s.cfg.replyCap)
    .repliedErr

/-- A message the dispatcher does not answer: nothing is sent, no collaborator is called, `replied = 0` (44_dispatch.md
rules R261, R280 to R282). -/
def notHandled (s : State) (r : Reason) : Out := respond s .notHandled r (.replied false)

/-! ## The answered arms -/

/-- APP_LIST's body: the count, then each id as a NUL-terminated string (44_dispatch.md rule R266). -/
def appListBody (apps : List AppRecord) : Bytes := BitVec.ofNat 8 apps.length :: apps.flatMap (fun a => cstr a.id)

/-- APP_LIST (44_dispatch.md rule R266). -/
def execAppList (s : State) : Out := queryApps s (fun apps s1 => replyOk s1 (appListBody apps))

/-- The body of START_APP or APP_INFO: the index byte and the strings after it; none when it is empty or MALFORMED, or
holds more than `most` strings (44_dispatch.md rules R268, R269, R276). -/
def parseArgs (body : Bytes) (most : Nat) : Option (Byte × List Bytes) :=
  match body with
  | [] => none
  | idx :: rest =>
    match splitNul rest with
    | none => none
    | some toks => if toks.length > most then none else some (idx, toks)

/-- START_APP's end: the switch is asked for, its Result is not consulted, and the reply is ok with an empty body
(44_dispatch.md rules R269, R270). -/
def startTarget (s : State) (target : Target) (arg : Bytes) : Out := replyOk (callSwitchApp s target arg) []

/-- START_APP (44_dispatch.md rules R269 to R271). -/
def execStartApp (s : State) : Out :=
  match parseArgs s.msg.body 2 with
  | none => replyErr s s.cfg.errcodeArgs .startArgs
  | some (idx, toks) =>
    if idx = 0xFF#8 then
      if tokenAt toks 0 = [] then replyErr s s.cfg.errcodeArgs .startArgs
      else startTarget s (.id (tokenAt toks 0)) (tokenAt toks 1)
    else
      queryApps s (fun apps s1 =>
        if idx.toNat ≥ apps.length then replyErr s1 s1.cfg.errcodeNotFound .startNotFound
        else startTarget s1 (.index idx) (tokenAt toks 1))

/-- EXIT_APP: a failure is replied with the collaborator's own code; on success the reply is sent and `exit_req` is set,
even when the write fails (44_dispatch.md rules R272, R273). Sending reads and writes nothing of `exit_req`. -/
def execExitApp (s : State) : Out :=
  queryExit s (fun r s1 =>
    match r with
    | .err e => replyErr s1 e .exitFail
    | .ok => replyOk (s1.setExitReq true) [])

/-- CUR_APP_INFO's body: the least index of the current app, or 0xFF, and its id (44_dispatch.md rule R274). -/
def curAppBody (apps : List AppRecord) (cur : Bytes) : Bytes :=
  (match findApp apps cur with
    | some k => BitVec.ofNat 8 k
    | none => 0xFF#8) :: cstr cur

/-- CUR_APP_INFO (44_dispatch.md rules R274, R275). -/
def execCurAppInfo (s : State) : Out :=
  queryCurrentApp s (fun cur s1 => queryApps s1 (fun apps s2 => replyOk s2 (curAppBody apps cur)))

/-- The app that APP_INFO's index byte and strings name: by id when the index is 0xFF, else by index (44_dispatch.md rules
R276, R277). -/
def resolveApp (apps : List AppRecord) (idx : Byte) (toks : List Bytes) : Option Nat :=
  if idx = 0xFF#8 then
    if tokenAt toks 0 = [] then none else findApp apps (tokenAt toks 0)
  else if idx.toNat ≥ apps.length then none else some idx.toNat

/-- APP_INFO's body: the index, and id, name and description as NUL-terminated strings (44_dispatch.md rule R276). -/
def appInfoBody (k : Nat) (a : AppRecord) : Bytes :=
  BitVec.ofNat 8 k :: (cstr a.id ++ cstr a.name ++ cstr a.description)

/-- APP_INFO (44_dispatch.md rules R276, R277). -/
def execAppInfo (s : State) : Out :=
  match parseArgs s.msg.body 1 with
  | none => replyErr s s.cfg.errcodeArgs .infoArgs
  | some (idx, toks) =>
    queryApps s (fun apps s1 =>
      match (resolveApp apps idx toks).bind (fun k => apps[k]?.map (fun a => (k, a))) with
      | none => replyErr s1 s1.cfg.errcodeArgs .infoArgs
      | some (k, a) => replyOk s1 (appInfoBody k a))

/-! ## The arms that are not answered -/

/-- SET_REPORT (44_dispatch.md rule R280). -/
def execSetReport (s : State) : Out := notHandled s .passThrough
/-- KEY (44_dispatch.md rule R280). -/
def execKey (s : State) : Out := notHandled s .passThrough
/-- TOUCH (44_dispatch.md rule R280). -/
def execTouch (s : State) : Out := notHandled s .passThrough
/-- Application ids 0x00..0x7F (44_dispatch.md rule R281). -/
def execAppCmd00 (_cmd : Byte) (s : State) : Out := notHandled s .unrecognized
/-- Application ids 0x80..0xBF (44_dispatch.md rule R281). -/
def execAppCmd80 (_cmd : Byte) (s : State) : Out := notHandled s .unrecognized
/-- Application ids 0xC0..0xC7 (44_dispatch.md rule R281). -/
def execAppCmdC0 (_cmd : Byte) (s : State) : Out := notHandled s .unrecognized
/-- Reserved ids 0xC8..0xCF, among them CMD_APP_MAX (44_dispatch.md rule R281). -/
def execReservedC8 (_cmd : Byte) (s : State) : Out := notHandled s .unrecognized
/-- Reserved ids 0xD0..0xDF (44_dispatch.md rule R281). -/
def execReservedD0 (_cmd : Byte) (s : State) : Out := notHandled s .unrecognized
/-- Reserved ids 0xE0..0xEF (44_dispatch.md rule R281). -/
def execReservedE0 (_cmd : Byte) (s : State) : Out := notHandled s .unrecognized
/-- Reserved ids 0xF0..0xF7 (44_dispatch.md rule R281). -/
def execReservedF0 (_cmd : Byte) (s : State) : Out := notHandled s .unrecognized

/-! ## The multiplexer (44_dispatch.md rules R260, R261) -/

/-- The arm that an instruction of the CMD format names (44_dispatch.md rule R260). `decodeCmd` answers no other
instruction; one would fall to the table's last row, any other cmd. -/
def runArm (arm : Instr) (s : State) : Out :=
  match arm with
  | .setReport => execSetReport s
  | .appList => execAppList s
  | .startApp => execStartApp s
  | .exitApp => execExitApp s
  | .curAppInfo => execCurAppInfo s
  | .appInfo => execAppInfo s
  | .key => execKey s
  | .touch => execTouch s
  | .appCmd00 c => execAppCmd00 c s
  | .appCmd80 c => execAppCmd80 c s
  | .appCmdC0 c => execAppCmdC0 c s
  | .reservedC8 c => execReservedC8 c s
  | .reservedD0 c => execReservedD0 c s
  | .reservedE0 c => execReservedE0 c s
  | .reservedF0 c => execReservedF0 c s
  | .init _ | .encode _ _ _ _ _ _ | .encRespOk _ _ _ | .encReport _ _ _ | .encRespErr _ _ _ _ | .decodeAt _ _
  | .push _ | .tryDecode | .dispatch | .rdreg _ | .illegal0A _ | .illegal0C _ | .illegal10 _ | .illegal20 _
  | .illegal40 _ | .illegal80 _ | .frameRequest _ | .frameResponse _ => notHandled s .unrecognized

/-- A request frame: dispatched on cmd, whatever bits 6 and 5 of its flags hold (30_encoding.md rule R106, 44_dispatch.md
rule R260). -/
def execFrameRequest (_flags : Byte) (s : State) : Out := runArm (decodeCmd s.msg.cmd) s

/-- A response or report frame: never dispatched (44_dispatch.md rule R282). -/
def execFrameResponse (_flags : Byte) (s : State) : Out := notHandled s .response

/-- DISPATCH: `msg_valid`, then bit 7 of the flags, then the cmd (44_dispatch.md rules R260, R261). -/
def execDispatch (s : State) : Out :=
  if s.msgValid = false then raise s .noMessage .none
  else if s.msg.isResponse then execFrameResponse s.msg.flags s
  else execFrameRequest s.msg.flags s

end Sys2Proof.Machine
end

