-- ==== Sys2Proof/Machine/Dispatch.lean ====
section
/-! DEFINITION. What each instruction does: one arm per constructor of Instr, in the order of spec/opcode_table.json. -/

namespace Sys2Proof.Machine

def exec (i : Instr) (s : State) : Host.Outcome State Fault Refusal :=
  match i with
  | .init magic => Sys2Proof.Machine.execInit magic s
  | .encode cmd flags body err version dstCap => Sys2Proof.Machine.execEncode cmd flags body err version dstCap s
  | .encRespOk cmd body dstCap => Sys2Proof.Machine.execEncRespOk cmd body dstCap s
  | .encReport cmd body dstCap => Sys2Proof.Machine.execEncReport cmd body dstCap s
  | .encRespErr cmd code message dstCap => Sys2Proof.Machine.execEncRespErr cmd code message dstCap s
  | .decodeAt buffer magic => Sys2Proof.Machine.execDecodeAt buffer magic s
  | .push data => Sys2Proof.Machine.execPush data s
  | .tryDecode => Sys2Proof.Machine.execTryDecode s
  | .dispatch => Sys2Proof.Machine.execDispatch s
  | .rdreg index => Sys2Proof.Machine.execRdreg index s
  | .illegal0A byte => Sys2Proof.Machine.execIllegal0A byte s
  | .illegal0C byte => Sys2Proof.Machine.execIllegal0C byte s
  | .illegal10 byte => Sys2Proof.Machine.execIllegal10 byte s
  | .illegal20 byte => Sys2Proof.Machine.execIllegal20 byte s
  | .illegal40 byte => Sys2Proof.Machine.execIllegal40 byte s
  | .illegal80 byte => Sys2Proof.Machine.execIllegal80 byte s
  | .setReport => Sys2Proof.Machine.execSetReport s
  | .appList => Sys2Proof.Machine.execAppList s
  | .startApp => Sys2Proof.Machine.execStartApp s
  | .exitApp => Sys2Proof.Machine.execExitApp s
  | .curAppInfo => Sys2Proof.Machine.execCurAppInfo s
  | .appInfo => Sys2Proof.Machine.execAppInfo s
  | .key => Sys2Proof.Machine.execKey s
  | .touch => Sys2Proof.Machine.execTouch s
  | .appCmd00 cmd => Sys2Proof.Machine.execAppCmd00 cmd s
  | .appCmd80 cmd => Sys2Proof.Machine.execAppCmd80 cmd s
  | .appCmdC0 cmd => Sys2Proof.Machine.execAppCmdC0 cmd s
  | .reservedC8 cmd => Sys2Proof.Machine.execReservedC8 cmd s
  | .reservedD0 cmd => Sys2Proof.Machine.execReservedD0 cmd s
  | .reservedE0 cmd => Sys2Proof.Machine.execReservedE0 cmd s
  | .reservedF0 cmd => Sys2Proof.Machine.execReservedF0 cmd s
  | .frameRequest flags => Sys2Proof.Machine.execFrameRequest flags s
  | .frameResponse flags => Sys2Proof.Machine.execFrameResponse flags s

end Sys2Proof.Machine
end

