-- ==== Sys2Proof/Machine/Step.lean ====
section
/-! DEFINITION. One step of the engine: it takes the host's next operation and runs it (00_scope.md rule R10). -/

namespace Sys2Proof.Machine

/-- One step. With no operation pending the engine waits: nothing changes (70_reset_and_hazards.md rule R371; log entry
6). -/
def step (s : State) : Host.Outcome State Fault Refusal :=
  match fetch s with
  | none => .next s
  | some (i, s1) => exec i s1

/-- The host issues the host command of a table word next (log entries 6, 11, 12). The external agents' answers stay
those the state holds. -/
def State.withFetchWord (s : State) (nbits w : Nat) : State :=
  { s with inputs := ⟨tableRequest nbits w, s.env⟩ :: s.inputs }

end Sys2Proof.Machine
end

