-- ==== Sys2Proof/Safety.lean ====
section
/-! DEFINITION. What claims call a good state and a good environment: the invariant of the engine's state, the duties of
the external agents (60_exceptions.md rule R345), and the operations' roles in spec/opcode_table.json. -/

namespace Sys2Proof.Machine

/-! ## The invariant -/

/-- The message register: at its reset value while `msg_valid` is 0 (10_state.md rule R40); else of version 1 (42_deframer.md
rule R198) and no longer than the accumulator can hold (20_memory.md rule R72). -/
def msgOk (s : State) : Prop :=
  if s.msgValid then s.msg.version = Config.protoVersion ∧ s.msg.body.length + 12 ≤ s.cfg.accCapacity
  else s.msg = Message.cleared

/-- The invariant every step keeps: parameters within the bounds of 00_scope.md rule R9, an accumulator within its capacity
(10_state.md rule R33), a message register as `msgOk` says, a status and reason of 60_exceptions.md rule R321, and a
`last_skip` no larger than the accumulator can hold (10_state.md rule R39). -/
structure State.Inv (s : State) : Prop where
  cfgWf : s.cfg.wf = true
  accFits : s.acc.length ≤ s.cfg.accCapacity
  msgOk : msgOk s
  statusLegal : legalStatus s.status.last s.status.reason = true
  skipFits : s.lastSkip.toNat ≤ s.cfg.accCapacity

/-! ## The external agents' duties (60_exceptions.md rule R345) -/

/-- `list_apps()` answers at most 255 records, with no 0x00 inside a string. -/
def Env.appsOk (e : Env) : Prop := e.apps.length ≤ 255 ∧ e.apps.all appClean = true

/-- `current_app_id()` answers a string with no 0x00 inside. -/
def Env.currentOk (e : Env) : Prop := noNul e.currentApp = true

/-- `sink_write(f)` answers Error or at most `|f|`. -/
def Env.sinkOk (e : Env) (f : Bytes) : Prop :=
  match e.sink with
  | .count n => n ≤ f.length
  | .all => True
  | .error => True

/-- The calls to external agents that the instruction makes in a state when they answer `e`. -/
def callsWith (i : Instr) (s : State) (e : Env) : List AgentCall :=
  match exec i { s with env := e } with
  | .next t => t.calls.drop s.calls.length
  | .fault _ => []
  | .refused _ => []

/-- Answers that keep every duty: no apps, an empty current app, and a sink that writes every byte; the rest as in `e`. -/
def Env.dutiful (e : Env) : Env := { e with apps := [], currentApp := [], sink := .all }

/-- The same answers, but of a sink that writes every byte. -/
def Env.sinkAll (e : Env) : Env := { e with sink := .all }

/-- The duty whose breach raises a fault (60_exceptions.md rule R345): an answer outside the duty's bounds, of an agent that the
instruction does call. The sink's bound is the size of the very frame `f` that the instruction hands it. -/
def brokenDuty (i : Instr) (s : State) : Fault → Prop
  | .tooManyApps => s.env.apps.length > 255 ∧ .listApps ∈ callsWith i s s.env.dutiful
  | .nulInString =>
      (s.env.apps.all appClean = false ∧ .listApps ∈ callsWith i s s.env.dutiful) ∨
        (noNul s.env.currentApp = false ∧ .currentAppId ∈ callsWith i s s.env.dutiful)
  | .sinkOverrun =>
      ∃ n f, s.env.sink = .count n ∧ .sinkWrite f ∈ callsWith i s s.env.sinkAll ∧ n > f.length

/-! ## Frames and replies -/

/-- The bytes of a frame, field by field (30_encoding.md rule R100): magic, length, flags_version, cmd, then `rest` (the
body, or the error code and the message), and the CRC of all of it, low byte first. -/
def wireFrame (magic : Word) (length : Nat) (flagsVersion cmd : Byte) (rest : Bytes) : Bytes :=
  le32 magic ++ le32 (BitVec.ofNat 32 length) ++ [flagsVersion, cmd] ++ rest ++
    le16 (crc16 (le32 magic ++ le32 (BitVec.ofNat 32 length) ++ [flagsVersion, cmd] ++ rest))

/-- How much the length field of an error frame exceeds its message: 5 in EXACT mode, 4 in LEGACY mode (30_encoding.md rule
R103). -/
def errLenExtra : ErrLenMode → Nat
  | .exact => 5
  | .legacy => 4

/-- The ok reply with a body: flags byte 0xC1 and the request's cmd (44_dispatch.md rules R262, R264). -/
def okReply (s : State) (body : Bytes) : Bytes := wireFrame s.cfgMagic (body.length + 4) 0xC1#8 s.msg.cmd body

/-- The error reply of a site: flags byte 0x81, the request's cmd, the code and the site's text (44_dispatch.md rules R262,
R264, R271). -/
def errReply (s : State) (code : Byte) (site : Site) : Bytes :=
  wireFrame s.cfgMagic ((s.cfg.errMsg site).length + errLenExtra s.cfg.errLenMode) 0x81#8 s.msg.cmd
    (code :: s.cfg.errMsg site)

/-- The reason of the status OK that a sent reply leaves: REPLIED_OK or REPLIED_ERR (44_dispatch.md rule R262). -/
def sentReason (isErr : Bool) : Reason := if isErr then .repliedErr else .none

/-- STATUS after the write of a reply `f`, by the sink's answer (44_dispatch.md rule R262). -/
def statusAfterWrite (e : Env) (f : Bytes) (isErr : Bool) : StatusReg :=
  match e.sink with
  | .error => ⟨.ioError, .writeError⟩
  | .all => ⟨.ok, sentReason isErr⟩
  | .count n => if n < f.length then ⟨.ioError, .shortWrite⟩ else ⟨.ok, sentReason isErr⟩

/-- The state after an arm has made the collaborator calls `made` and then written the reply `f` (44_dispatch.md rules
R262, R284): the calls, `has_been_replied`, STATUS and the response, and nothing else. -/
def State.afterReply (s : State) (made : List AgentCall) (f : Bytes) (isErr : Bool) : State :=
  { s with
    calls := s.calls ++ made ++ [.sinkWrite f]
    msg := { s.msg with hasBeenReplied := true }
    status := statusAfterWrite s.env f isErr
    response := some ⟨(statusAfterWrite s.env f isErr).last, (statusAfterWrite s.env f isErr).reason, .replied true⟩ }

/-- The state after an arm has made the collaborator calls `made` and found its reply larger than REPLY_CAP (44_dispatch.md rule
R262): nothing is written to the sink, and `has_been_replied` is unchanged. -/
def State.afterOversize (s : State) (made : List AgentCall) : State :=
  { s with
    calls := s.calls ++ made
    status := ⟨.argsError, .replyTooBig⟩
    response := some ⟨.argsError, .replyTooBig, .replied s.msg.hasBeenReplied⟩ }

/-- Every ok reply of the built-in arms fits REPLY_CAP (44_dispatch.md rule R283): the app list, the current app's info
and the info of each app. -/
def State.repliesFit (s : State) : Prop :=
  (s.env.apps.flatMap (fun a => a.id ++ [0x00#8])).length + 13 ≤ s.cfg.replyCap ∧
    s.env.currentApp.length + 14 ≤ s.cfg.replyCap ∧
    ∀ a ∈ s.env.apps, a.id.length + a.name.length + a.description.length + 16 ≤ s.cfg.replyCap

/-! ## Runs of one operation -/

/-- The state after `n` TRY_DECODE operations in a row, if each answers a next state. -/
def afterTryDecodes : Nat → State → Option State
  | 0, s => some s
  | n + 1, s =>
    match exec .tryDecode s with
    | .next t => afterTryDecodes n t
    | .fault _ => none
    | .refused _ => none

/-! ## Roles of the instructions -/

/-- The instructions that run the dispatcher: DISPATCH and what it selects (the CMD and FLAGS rows). -/
def dispatches : Instr → Bool
  | .init _ => false
  | .encode _ _ _ _ _ _ => false
  | .encRespOk _ _ _ => false
  | .encReport _ _ _ => false
  | .encRespErr _ _ _ _ => false
  | .decodeAt _ _ => false
  | .push _ => false
  | .tryDecode => false
  | .dispatch => true
  | .rdreg _ => false
  | .illegal0A _ => false
  | .illegal0C _ => false
  | .illegal10 _ => false
  | .illegal20 _ => false
  | .illegal40 _ => false
  | .illegal80 _ => false
  | .setReport => true
  | .appList => true
  | .startApp => true
  | .exitApp => true
  | .curAppInfo => true
  | .appInfo => true
  | .key => true
  | .touch => true
  | .appCmd00 _ => true
  | .appCmd80 _ => true
  | .appCmdC0 _ => true
  | .reservedC8 _ => true
  | .reservedD0 _ => true
  | .reservedE0 _ => true
  | .reservedF0 _ => true
  | .frameRequest _ => true
  | .frameResponse _ => true

/-- The decode outcomes' statuses: OK, NOT_FOUND with reasons 1 to 4, INCOMPLETE (60_exceptions.md rule R323). -/
def decodeStatuses : List (Status × Reason) :=
  [(.ok, .none), (.notFound, .noMagic), (.notFound, .crc), (.notFound, .badLength), (.notFound, .badVersion),
    (.incomplete, .none)]

/-- DISPATCH's statuses (60_exceptions.md rule R323). -/
def dispatchStatuses : List (Status × Reason) :=
  [(.ok, .none), (.ok, .repliedErr), (.notHandled, .response), (.notHandled, .unrecognized), (.notHandled, .passThrough),
    (.argsError, .replyTooBig), (.ioError, .writeError), (.ioError, .shortWrite), (.noMessage, .none)]

/-- The statuses each operation can return (60_exceptions.md rule R323): one row of its table each. The CMD and FLAGS rows
are parts of DISPATCH. -/
def possibleStatuses : Instr → List (Status × Reason)
  | .init _ => [(.ok, .none)]
  | .encode _ _ _ _ _ _ => [(.ok, .none), (.argsError, .version), (.argsError, .capacity), (.argsError, .length)]
  | .encRespOk _ _ _ => [(.ok, .none), (.argsError, .capacity)]
  | .encReport _ _ _ => [(.ok, .none), (.argsError, .capacity)]
  | .encRespErr _ _ _ _ => [(.ok, .none), (.argsError, .capacity)]
  | .decodeAt _ _ => decodeStatuses
  | .push _ => [(.ok, .none), (.bufferFull, .none)]
  | .tryDecode => decodeStatuses
  | .dispatch => dispatchStatuses
  | .rdreg _ => [(.ok, .none), (.argsError, .badIndex)]
  | .illegal0A _ => [(.illegalOp, .none)]
  | .illegal0C _ => [(.illegalOp, .none)]
  | .illegal10 _ => [(.illegalOp, .none)]
  | .illegal20 _ => [(.illegalOp, .none)]
  | .illegal40 _ => [(.illegalOp, .none)]
  | .illegal80 _ => [(.illegalOp, .none)]
  | .setReport => dispatchStatuses
  | .appList => dispatchStatuses
  | .startApp => dispatchStatuses
  | .exitApp => dispatchStatuses
  | .curAppInfo => dispatchStatuses
  | .appInfo => dispatchStatuses
  | .key => dispatchStatuses
  | .touch => dispatchStatuses
  | .appCmd00 _ => dispatchStatuses
  | .appCmd80 _ => dispatchStatuses
  | .appCmdC0 _ => dispatchStatuses
  | .reservedC8 _ => dispatchStatuses
  | .reservedD0 _ => dispatchStatuses
  | .reservedE0 _ => dispatchStatuses
  | .reservedF0 _ => dispatchStatuses
  | .frameRequest _ => dispatchStatuses
  | .frameResponse _ => dispatchStatuses

/-! ## The stalled stream (70_reset_and_hazards.md rule R380) -/

/-- The least offset where the magic stands is `i` (42_deframer.md rule R192). -/
def magicAt (buf : Bytes) (magic : Word) (i : Nat) : Prop :=
  i + 4 ≤ buf.length ∧ slice buf i (i + 4) = le32 magic ∧ ∀ k, k < i → slice buf k (k + 4) ≠ le32 magic

/-- The earliest magic is followed by a length field that the accumulator can never hold (70_reset_and_hazards.md rule
R380). -/
def State.stalled (s : State) : Prop :=
  ∃ i, magicAt s.acc s.cfgMagic i ∧ i + 8 ≤ s.acc.length ∧ i + 8 + rdLe32 s.acc (i + 4) > s.cfg.accCapacity

end Sys2Proof.Machine
end

