-- ==== Sys2Proof/Certificates/Slice0/Obligations.lean ====
section
/-! DEFINITION. The statements for the provers, from the numbered rules of spec/. OBLIGATIONS.json lists them with the
rules they cite. -/

open Sys2Proof Sys2Proof.Machine

/-! ## Encodings and the step -/

/-- A step runs the host operation at the head of the pending ones: it is exec of the decoded request, on the state that
has taken the request and the external agents' answers for it; the decoded instruction is well formed. With no operation
pending the engine waits (00_scope.md R10, 10_state.md R31, R46, 70_reset_and_hazards.md R371; log entry 6). -/
def Obligations.StepRunsDecodedRequest : Prop :=
  ∀ s : State,
    (∀ inp rest, s.inputs = inp :: rest →
      step s = exec (decodeHost inp.request) { s with inputs := rest, env := inp.env } ∧
        (decodeHost inp.request).wf = true) ∧
    (s.inputs = [] → step s = .next s)

/-- Words written out from spec/opcode_table.json decode to the instructions they stand for: host command bytes, cmd bytes and flags bytes, and a flags byte of version 2 is rejected (30_encoding.md R104, R108, R110,
R116, R117). -/
def Obligations.SpecWordsDecode : Prop :=
  (∀ a, decode (.host ⟨0b00000000#8, a⟩) = .ok (.init a.magic)) ∧
    (∀ a, decode (.host ⟨0b00000001#8, a⟩) = .ok (.encode a.cmd a.flags a.bytes a.err a.version a.dstCap)) ∧
    (∀ a, decode (.host ⟨0b00000111#8, a⟩) = .ok .tryDecode) ∧
    (∀ a, decode (.host ⟨0b00001000#8, a⟩) = .ok .dispatch) ∧
    (∀ a, decode (.host ⟨0b00001001#8, a⟩) = .ok (.rdreg a.index)) ∧
    (∀ a, decode (.host ⟨0b00010101#8, a⟩) = .ok (.illegal10 0x15#8)) ∧
    decode (.cmd 0b11111001#8) = .ok .appList ∧
    decode (.cmd 0b11001000#8) = .ok (.reservedC8 0xC8#8) ∧
    decode (.flags 0b11000001#8) = .ok (.frameResponse 0xC1#8) ∧
    decode (.flags 0b00000001#8) = .ok (.frameRequest 0x01#8) ∧
    decode (.flags 0b00000010#8) = .error (.badVersion 0x02#8)

/-- Decoding an encoded well-formed instruction gives it back, with every operand at every value. -/
def Obligations.EncodedInstructionDecodesBack : Prop :=
  ∀ i : Instr, i.wf = true → decode (encode i) = .ok i

/-- Every cmd byte names exactly one arm, whose encoding is that byte; a flags byte names its frame kind by bit 7 when its
version is 1 and is rejected when it is not (30_encoding.md R106, R108, R109, R110, R111). -/
def Obligations.FrameBytesDecodeToTheirRows : Prop :=
  ∀ b : Byte,
    (∃ i, decode (.cmd b) = .ok i ∧ i.wf = true ∧ encode i = .cmd b) ∧
    (b.extractLsb' 0 2 = 1#2 → b.getLsbD 7 = false → decode (.flags b) = .ok (.frameRequest b)) ∧
    (b.extractLsb' 0 2 = 1#2 → b.getLsbD 7 = true → decode (.flags b) = .ok (.frameResponse b)) ∧
    (b.extractLsb' 0 2 ≠ 1#2 → decode (.flags b) = .error (.badVersion b))

/-- A host command byte whose OP is 0xA..0xF, or whose bits 7..4 are not 0000, answers ILLEGAL_OP with reason 0, whatever
its arguments, and changes no state but STATUS (30_encoding.md R117, 60_exceptions.md R322). -/
def Obligations.ReservedBytesAnswerIllegalOp : Prop :=
  ∀ (r : Request) (s : State), (10 ≤ (r.op.extractLsb' 0 4).toNat ∨ r.op.extractLsb' 4 4 ≠ 0#4) →
    exec (decodeHost r) s =
      .next { s with status := ⟨.illegalOp, .none⟩, response := some ⟨.illegalOp, .none, .none⟩ }

/-- Each of the six rows of reserved host command bytes answers ILLEGAL_OP and changes no state but STATUS (60_exceptions.md
R322). -/
def Obligations.IllegalRowsComplete : Prop :=
  ∀ (b : Byte) (s : State),
    exec (.illegal0A b) s = .next { s with status := ⟨.illegalOp, .none⟩, response := some ⟨.illegalOp, .none, .none⟩ } ∧
    exec (.illegal0C b) s = .next { s with status := ⟨.illegalOp, .none⟩, response := some ⟨.illegalOp, .none, .none⟩ } ∧
    exec (.illegal10 b) s = .next { s with status := ⟨.illegalOp, .none⟩, response := some ⟨.illegalOp, .none, .none⟩ } ∧
    exec (.illegal20 b) s = .next { s with status := ⟨.illegalOp, .none⟩, response := some ⟨.illegalOp, .none, .none⟩ } ∧
    exec (.illegal40 b) s = .next { s with status := ⟨.illegalOp, .none⟩, response := some ⟨.illegalOp, .none, .none⟩ } ∧
    exec (.illegal80 b) s = .next { s with status := ⟨.illegalOp, .none⟩, response := some ⟨.illegalOp, .none, .none⟩ }

/-! ## Reset and invariants -/

/-- After reset every state element has the value of 10_state.md R50. -/
def Obligations.ResetLeavesSpecValues : Prop :=
  State.reset.cfgMagic = 0xBBACCAAA#32 ∧ State.reset.acc = [] ∧ State.reset.msgValid = false ∧
    State.reset.msg = { flags := 0#8, cmd := 0#8, body := [], hasBeenReplied := false } ∧
    State.reset.status = ⟨.ok, .none⟩ ∧ statusWord State.reset = 0#32 ∧
    State.reset.lastSkip = 0#32 ∧ State.reset.exitReq = false

/-- The invariant holds at reset, in the default ERR_LEN_MODE, which it is constructed with (log entry 3), and in either. The other
parameters there are free values within the bounds of 00_scope.md R9, whichever they are (log entries 2, 4 and 5). -/
def Obligations.InvariantHoldsAtReset : Prop :=
  State.reset.Inv ∧ State.reset.cfg.errLenMode = Config.defaultErrLenMode ∧ ∀ mode : ErrLenMode, ({ State.reset with cfg := Config.constructionIn mode } : State).Inv

/-- Every step keeps the invariant: the accumulator within its capacity, the message register at its reset value or of
version 1 and within the bound of 20_memory.md R72, a status and reason of 60_exceptions.md R321's table, `last_skip`
within the capacity, and the parameters within their bounds. -/
def Obligations.StepKeepsInvariant : Prop :=
  ∀ s t : State, s.Inv → step s = .next t → t.Inv

/-- No operation changes the configuration (10_state.md R35, R37, 70_reset_and_hazards.md R370). -/
def Obligations.ConfigurationNeverChanges : Prop :=
  ∀ s t : State, step s = .next t → t.cfg = s.cfg

/-- `cfg_magic` is 0xBBACCAAA at reset, and only INIT writes it (10_state.md R34). -/
def Obligations.OnlyInitWritesMagic : Prop :=
  State.reset.cfgMagic = 0xBBACCAAA#32 ∧
    (∀ (m : Word) (s t : State), exec (.init m) s = .next t → t.cfgMagic = m) ∧
    ∀ (i : Instr) (s t : State), exec i s = .next t → (∀ m, i ≠ .init m) → t.cfgMagic = s.cfgMagic

/-- Only INIT, PUSH and TRY_DECODE change the accumulator: after any other instruction every address reads as before
(10_state.md R33, 20_memory.md R71). -/
def Obligations.OnlyAccumulatorOpsChangeAcc : Prop :=
  ∀ (i : Instr) (s t : State), exec i s = .next t → (∀ m, i ≠ .init m) → (∀ d, i ≠ .push d) → i ≠ .tryDecode →
    t.acc = s.acc ∧ ∀ a, memByte t a = memByte s a

/-- Who writes `last_skip`: INIT, DECODE_AT and an accepted PUSH write it to 0, TRY_DECODE writes the number of bytes it
removed from the front of `acc`, and every other instruction, and a refused PUSH (log entry 17), leaves it unchanged
(10_state.md R39, 43_accumulator.md R233). -/
def Obligations.LastSkipCountsTheDiscard : Prop :=
  ∀ (i : Instr) (s t : State), s.Inv → exec i s = .next t →
    (∀ m, i = .init m → t.lastSkip = 0#32) ∧
    (∀ b m, i = .decodeAt b m → t.lastSkip = 0#32) ∧
    (∀ d, i = .push d → t.status.last = .ok → t.lastSkip = 0#32) ∧
    (∀ d, i = .push d → t.status.last ≠ .ok → t.lastSkip = s.lastSkip) ∧
    (i = .tryDecode → t.lastSkip.toNat + t.acc.length = s.acc.length ∧ t.acc = s.acc.drop t.lastSkip.toNat) ∧
    ((∀ m, i ≠ .init m) → (∀ b m, i ≠ .decodeAt b m) → (∀ d, i ≠ .push d) → i ≠ .tryDecode → t.lastSkip = s.lastSkip)

/-- The message register is written by TRY_DECODE and INIT alone, but for `has_been_replied`, which only the dispatcher
sets and which it never clears (10_state.md R42, 70_reset_and_hazards.md R372). -/
def Obligations.MessageRegisterLife : Prop :=
  ∀ (i : Instr) (s t : State), exec i s = .next t → (∀ m, i ≠ .init m) → i ≠ .tryDecode →
    t.msgValid = s.msgValid ∧ t.msg.flags = s.msg.flags ∧ t.msg.cmd = s.msg.cmd ∧ t.msg.body = s.msg.body ∧
    (dispatches i = false → t.msg = s.msg) ∧
    (s.msg.hasBeenReplied = true → t.msg.hasBeenReplied = true)

/-- `exit_req` is sticky: only INIT clears it, and only the arm EXIT_APP, run by itself or for a request of cmd 0xFB, sets it,
having called `request_exit` and been answered ok (10_state.md R43, 44_dispatch.md R273). -/
def Obligations.ExitRequestIsSticky : Prop :=
  ∀ (i : Instr) (s t : State), exec i s = .next t →
    (s.exitReq = true → t.exitReq = false → ∃ m, i = .init m) ∧
    (s.exitReq = false → t.exitReq = true →
      (i = .exitApp ∨ (s.msg.cmd = 0xFB#8 ∧
        ((∃ fl, i = .frameRequest fl) ∨ (i = .dispatch ∧ s.msgValid = true ∧ s.msg.flags.getLsbD 7 = false)))) ∧
      s.env.exitResult = .ok ∧ ∃ made, t.calls = s.calls ++ made ∧ .requestExit ∈ made)

/-- The engine calls external agents only when it dispatches, and the sink at most once in one operation (10_state.md R44,
R45, 41_framer.md R168). -/
def Obligations.OnlyDispatchCallsAgents : Prop :=
  ∀ (i : Instr) (s t : State), exec i s = .next t →
    ∃ made, t.calls = s.calls ++ made ∧ (dispatches i = false → made = []) ∧
      (made.filterMap AgentCall.frame?).length ≤ 1

/-- Each operation returns only the statuses and reasons of its row in 60_exceptions.md R323, an inference the spec marks as its
own, from the rules of 41_framer.md to 44_dispatch.md, and every operation but RDREG writes to STATUS what it returns (10_state.md R46). -/
def Obligations.StatusesOfEachOperation : Prop :=
  ∀ (i : Instr) (s t : State), exec i s = .next t →
    ∃ r : Response, t.response = some r ∧ (r.status, r.reason) ∈ possibleStatuses i ∧
      ((∀ x, i ≠ .rdreg x) → t.status = ⟨r.status, r.reason⟩) ∧ (∀ x, i = .rdreg x → t.status = s.status)

/-- No instruction is refused, and a fault is raised only for an answer that breaks the duty of an agent that the instruction
calls: more than 255 apps, a 0x00 inside a string, or a sink's count above the size of the very frame handed to it
(60_exceptions.md R345; the stop is the model's, log entry 13). -/
def Obligations.FaultsOnlyOnBrokenDuties : Prop :=
  ∀ (i : Instr) (s : State),
    (∀ r, exec i s ≠ .refused r) ∧ (∀ r, exec i s = .fault r → dispatches i = true ∧ brokenDuty i s r)

/-- Where the arms APP_LIST, CUR_APP_INFO and EXIT_APP stop on an answer that breaks an external agent's duty: APP_LIST and
CUR_APP_INFO on more than 255 apps, APP_LIST on a 0x00 inside a string of the list, CUR_APP_INFO on one inside the current
app's id, EXIT_APP on a sink that claims more bytes than its 12-byte reply has (60_exceptions.md R345; the stop is the
model's choice, log entry 13). -/
def Obligations.BrokenDutiesFault : Prop :=
  ∀ s : State,
    (s.env.apps.length > 255 → exec .appList s = .fault .tooManyApps ∧
      (noNul s.env.currentApp = true → exec .curAppInfo s = .fault .tooManyApps)) ∧
    (s.env.apps.length ≤ 255 → s.env.apps.all appClean = false → exec .appList s = .fault .nulInString) ∧
    (noNul s.env.currentApp = false → exec .curAppInfo s = .fault .nulInString) ∧
    (∀ n, s.cfg.wf = true → s.env.exitResult = .ok → s.env.sink = .count n → n > 12 →
      exec .exitApp s = .fault .sinkOverrun)

/-! ## The accumulator's operations -/

/-- INIT, host OP 0, writes every element of the engine's state, whatever the state, and does not change the configuration
(43_accumulator.md R230). -/
def Obligations.InitWritesEveryElement : Prop :=
  (∀ a : Args, decode (.host ⟨0x00#8, a⟩) = .ok (.init a.magic)) ∧
  ∀ (magic : Word) (s : State),
    exec (.init magic) s =
      .next { s with
        cfgMagic := magic
        acc := []
        msgValid := false
        msg := { flags := 0#8, cmd := 0#8, body := [], hasBeenReplied := false }
        lastSkip := 0#32
        exitReq := false
        status := ⟨.ok, .none⟩
        response := some ⟨.ok, .none, .none⟩ }

/-- PUSH, host OP 6, appends all of its data when that fits ACC_CAPACITY, an exact fill and an empty push included, and else answers
BUFFER_FULL and writes nothing but STATUS (43_accumulator.md R233). -/
def Obligations.PushAppendsAllOrNothing : Prop :=
  (∀ a : Args, decode (.host ⟨0x06#8, a⟩) = .ok (.push a.bytes)) ∧
  ∀ (data : Bytes) (s : State),
    (s.acc.length + data.length ≤ s.cfg.accCapacity →
      exec (.push data) s =
        .next { s with
          acc := s.acc ++ data
          lastSkip := 0#32
          status := ⟨.ok, .none⟩
          response := some ⟨.ok, .none, .none⟩ }) ∧
    (s.acc.length + data.length > s.cfg.accCapacity →
      exec (.push data) s =
        .next { s with status := ⟨.bufferFull, .none⟩, response := some ⟨.bufferFull, .none, .none⟩ })

/-- TRY_DECODE, host OP 7, by the outcome of the deframer on the accumulator: it loads the message and discards what was consumed, or
clears the message register and discards the skipped bytes, or clears it and leaves the accumulator (43_accumulator.md
R236). -/
def Obligations.TryDecodeConsumesFront : Prop :=
  (∀ a : Args, decode (.host ⟨0x07#8, a⟩) = .ok .tryDecode) ∧
  ∀ s : State,
    (∀ m c, decodeAt s.acc s.cfgMagic = .found m c →
      exec .tryDecode s =
        .next { s with
          acc := s.acc.drop c
          msgValid := true
          msg := m
          lastSkip := BitVec.ofNat 32 c
          status := ⟨.ok, .none⟩
          response := some ⟨.ok, .none, .message m.flags m.cmd m.body⟩ }) ∧
    (∀ k why, decodeAt s.acc s.cfgMagic = .notFound k why →
      exec .tryDecode s =
        .next { s with
          acc := s.acc.drop k
          msgValid := false
          msg := { flags := 0#8, cmd := 0#8, body := [], hasBeenReplied := false }
          lastSkip := BitVec.ofNat 32 k
          status := ⟨.notFound, why⟩
          response := some ⟨.notFound, why, .none⟩ }) ∧
    (decodeAt s.acc s.cfgMagic = .incomplete →
      exec .tryDecode s =
        .next { s with
          msgValid := false
          msg := { flags := 0#8, cmd := 0#8, body := [], hasBeenReplied := false }
          lastSkip := 0#32
          status := ⟨.incomplete, .none⟩
          response := some ⟨.incomplete, .none, .none⟩ })

/-- The accumulator space byte by byte: PUSH leaves every address below `|acc|` as it was and, when it is accepted, puts its data
at the addresses from `|acc|` on; TRY_DECODE moves every byte down by the `last_skip` it leaves; after INIT no address holds
a byte (20_memory.md R70, R71). -/
def Obligations.AccumulatorBytesMoveAsStated : Prop :=
  ∀ s t : State, s.Inv →
    (∀ data, exec (.push data) s = .next t →
      (∀ a, a < s.acc.length → memByte t a = memByte s a) ∧
      (s.acc.length + data.length ≤ s.cfg.accCapacity → ∀ k : Nat, memByte t (s.acc.length + k) = data[k]?) ∧
      (s.acc.length + data.length > s.cfg.accCapacity → ∀ a, memByte t a = memByte s a)) ∧
    (exec .tryDecode s = .next t → ∀ a, memByte t a = memByte s (t.lastSkip.toNat + a)) ∧
    (∀ m, exec (.init m) s = .next t → ∀ a, memByte t a = none)

/-- Forward progress of TRY_DECODE with the least shrink of each outcome: a message and at least 12 bytes, NO_MAGIC 9,
BAD_LENGTH 8, CRC and BAD_VERSION 12, or INCOMPLETE and the accumulator unchanged. This is an inference the spec marks as its
own, 43_accumulator.md R238, from R236 and 42_deframer.md R193 to R199. -/
def Obligations.TryDecodeMakesProgress : Prop :=
  ∀ s t : State, exec .tryDecode s = .next t →
    (t.status = ⟨.ok, .none⟩ ∧ t.msgValid = true ∧ t.acc.length + 12 ≤ s.acc.length) ∨
    (t.status = ⟨.notFound, .noMagic⟩ ∧ t.acc.length + 9 ≤ s.acc.length) ∨
    (t.status = ⟨.notFound, .badLength⟩ ∧ t.acc.length + 8 ≤ s.acc.length) ∨
    (t.status = ⟨.notFound, .crc⟩ ∧ t.acc.length + 12 ≤ s.acc.length) ∨
    (t.status = ⟨.notFound, .badVersion⟩ ∧ t.acc.length + 12 ≤ s.acc.length) ∨
    (t.status = ⟨.incomplete, .none⟩ ∧ t.acc = s.acc)

/-- Without an intervening PUSH, at most ⌊|acc| / 8⌋ consecutive TRY_DECODE operations answer something other than INCOMPLETE,
and the next one answers INCOMPLETE. This is an inference the spec marks as its own, 43_accumulator.md R238. -/
def Obligations.DrainEndsInIncomplete : Prop :=
  ∀ s : State, ∃ (n : Nat) (t u : State), n ≤ s.acc.length / 8 ∧ afterTryDecodes n s = some t ∧
    exec .tryDecode t = .next u ∧ u.status = ⟨.incomplete, .none⟩ ∧
    ∀ (k : Nat) (v w : State), k < n → afterTryDecodes k s = some v → exec .tryDecode v = .next w →
      w.status.last ≠ .incomplete

/-! ## RDREG -/

/-- RDREG, host OP 9, answers the contents of 10_state.md R47 for the indices 0x00 to 0x09, answers ARGS_ERROR reason 5 and value 0 for
any other, and writes no state, not even STATUS; the message registers read 0 while `msg_valid` is 0 (43_accumulator.md
R240). -/
def Obligations.RdregReadsTheRegisterMap : Prop :=
  (∀ a : Args, decode (.host ⟨0x09#8, a⟩) = .ok (.rdreg a.index)) ∧
  ∀ s : State,
    exec (.rdreg 0x00#8) s = .next { s with response := some ⟨.ok, .none, .value s.cfgMagic⟩ } ∧
    exec (.rdreg 0x01#8) s =
      .next { s with response := some ⟨.ok, .none, .value (BitVec.ofNat 32 s.cfg.accCapacity)⟩ } ∧
    exec (.rdreg 0x02#8) s = .next { s with response := some ⟨.ok, .none, .value 1#32⟩ } ∧
    exec (.rdreg 0x03#8) s =
      .next { s with
        response := some ⟨.ok, .none, .value (if s.cfg.errLenMode = .legacy then 1#32 else 0#32)⟩ } ∧
    exec (.rdreg 0x04#8) s =
      .next { s with response := some ⟨.ok, .none, .value (BitVec.ofNat 32 s.acc.length)⟩ } ∧
    exec (.rdreg 0x05#8) s = .next { s with response := some ⟨.ok, .none, .value (statusWord s)⟩ } ∧
    exec (.rdreg 0x06#8) s = .next { s with response := some ⟨.ok, .none, .value s.lastSkip⟩ } ∧
    exec (.rdreg 0x07#8) s = .next { s with response := some ⟨.ok, .none, .value (s.msg.flags.setWidth 32)⟩ } ∧
    exec (.rdreg 0x08#8) s = .next { s with response := some ⟨.ok, .none, .value (s.msg.cmd.setWidth 32)⟩ } ∧
    exec (.rdreg 0x09#8) s =
      .next { s with response := some ⟨.ok, .none, .value (BitVec.ofNat 32 s.msg.body.length)⟩ } ∧
    (∀ x : Byte, 0x0A ≤ x.toNat →
      exec (.rdreg x) s = .next { s with response := some ⟨.argsError, .badIndex, .value 0#32⟩ }) ∧
    (s.Inv → s.msgValid = false → ∀ x : Byte, x ∈ [0x07#8, 0x08#8, 0x09#8] →
      exec (.rdreg x) s = .next { s with response := some ⟨.ok, .none, .value 0#32⟩ })

/-- The fields of STATUS: LAST 3..0, REASON 7..4, MSG_VALID 8, MSG_REPLIED 9, EXIT_REQ 10, the current values of the state
they copy, and zeros in 31..11. All are zero at reset, and every operation except RDREG writes to LAST and REASON what it
returns (10_state.md R38). -/
def Obligations.StatusRegisterFields : Prop :=
  ∀ s : State,
    (statusWord s).extractLsb' 0 4 = s.status.last.code ∧ (statusWord s).extractLsb' 4 4 = s.status.reason.code ∧
    (statusWord s).getLsbD 8 = s.msgValid ∧ (statusWord s).getLsbD 9 = s.msg.hasBeenReplied ∧
    (statusWord s).getLsbD 10 = s.exitReq ∧ (statusWord s).extractLsb' 11 21 = 0#21 ∧ statusWord State.reset = 0#32 ∧
    ∀ (i : Instr) (t : State), exec i s = .next t → (∀ x, i ≠ .rdreg x) →
      ∃ r : Response, t.response = some r ∧ t.status = ⟨r.status, r.reason⟩

/-- The numbers of the status codes (60_exceptions.md R320) and of the reason sub-codes (60_exceptions.md R321). -/
def Obligations.StatusCodeNumbers : Prop :=
  Status.ok.code = 0#4 ∧ Status.argsError.code = 1#4 ∧ Status.bufferFull.code = 2#4 ∧ Status.incomplete.code = 3#4 ∧
    Status.notFound.code = 4#4 ∧ Status.notHandled.code = 5#4 ∧ Status.ioError.code = 6#4 ∧
    Status.illegalOp.code = 7#4 ∧ Status.noMessage.code = 8#4 ∧ (∀ st : Status, st.code.toNat ≤ 8) ∧
    Reason.none.code = 0#4 ∧ Reason.repliedErr.code = 1#4 ∧ Reason.version.code = 1#4 ∧ Reason.capacity.code = 2#4 ∧
    Reason.length.code = 3#4 ∧ Reason.replyTooBig.code = 4#4 ∧ Reason.badIndex.code = 5#4 ∧ Reason.noMagic.code = 1#4 ∧
    Reason.crc.code = 2#4 ∧ Reason.badLength.code = 3#4 ∧ Reason.badVersion.code = 4#4 ∧ Reason.response.code = 1#4 ∧
    Reason.unrecognized.code = 2#4 ∧ Reason.passThrough.code = 3#4 ∧ Reason.writeError.code = 1#4 ∧
    Reason.shortWrite.code = 2#4

/-! ## The CRC -/

/-- The reference values of `crc16`, which the spec computed from 40_crc.md R140 and marks as derived (R147). -/
def Obligations.CrcReferenceValues : Prop :=
  crc16 [] = 0x0000#16 ∧ crc16 [0x00#8] = 0x0000#16 ∧ crc16 [0xFF#8] = 0x4040#16 ∧ crc16 [0x41#8] = 0x30C0#16 ∧
    crc16 [0x31#8, 0x32#8, 0x33#8, 0x34#8, 0x35#8, 0x36#8, 0x37#8, 0x38#8, 0x39#8] = 0xBB3D#16 ∧
    crc16 [0xAA#8, 0xCA#8, 0xAC#8, 0xBB#8] = 0x953C#16

/-- A single bit flipped anywhere in the flags, cmd, error_code, body or CRC bytes of a frame with an exact length field is
caught by the CRC check: the whole frame is discarded with reason CRC. This is an inference the spec marks as its own, 40_crc.md
R146. -/
def Obligations.SingleBitFlipIsDiscarded : Prop :=
  ∀ (magic : Word) (fl cmd : Byte) (rest : Bytes) (p b : Nat), rest.length + 4 < 2 ^ 32 → 8 ≤ p →
    p < rest.length + 12 → b < 8 →
    decodeAt ((wireFrame magic (rest.length + 4) fl cmd rest).modify p (fun x => x ^^^ (1#8 <<< b))) magic =
      .notFound (rest.length + 12) .crc

/-! ## The framer -/

/-- ENCODE with version 1 and room answers the frame of 30_encoding.md R100 with the flags byte `flags OR 1`, the length
field of 41_framer.md R162 and the error code, when given, directly after cmd, and writes STATUS alone (41_framer.md R160,
R161, R162, R163). The byte order of its fields, and of every reading back, is fixed byte by byte: the low byte first
(00_scope.md R13), and so the default magic goes out as AA CA AC BB. -/
def Obligations.EncodeAnswersTheFrame : Prop :=
  (∀ v : Word, le32 v = [v.extractLsb' 0 8, v.extractLsb' 8 8, v.extractLsb' 16 8, v.extractLsb' 24 8]) ∧
  (∀ v : BitVec 16, le16 v = [v.extractLsb' 0 8, v.extractLsb' 8 8]) ∧
  le32 0xBBACCAAA#32 = [0xAA#8, 0xCA#8, 0xAC#8, 0xBB#8] ∧
  (∀ (b0 b1 b2 b3 : Byte) (pre post : Bytes),
    rdLe32 (pre ++ [b0, b1, b2, b3] ++ post) pre.length =
      b0.toNat + 256 * b1.toNat + 65536 * b2.toNat + 16777216 * b3.toNat ∧
    rdLe16 (pre ++ [b0, b1] ++ post) pre.length = b0.toNat + 256 * b1.toNat) ∧
  ∀ (s : State) (cmd flags : Byte) (body : Bytes) (dstCap : Word),
    (body.length + 12 ≤ dstCap.toNat →
      exec (.encode cmd flags body none 1#8 dstCap) s =
        .next { s with
          status := ⟨.ok, .none⟩
          response := some ⟨.ok, .none, .frame (wireFrame s.cfgMagic (body.length + 4) (flags ||| 1#8) cmd body)⟩ }) ∧
    (∀ e : Byte, body.length + 13 ≤ dstCap.toNat →
      exec (.encode cmd flags body (some e) 1#8 dstCap) s =
        .next { s with
          status := ⟨.ok, .none⟩
          response := some ⟨.ok, .none, .frame (wireFrame s.cfgMagic
            (if s.cfg.errLenMode = .exact then body.length + 5 else body.length + 4) (flags ||| 1#8) cmd (e :: body))⟩ })

/-- ENCODE reports the first check that fails: the version, compared as a whole byte, with reason 1, then the capacity with
reason 2; it then returns no frame and writes STATUS alone (41_framer.md R164, R165, R166). -/
def Obligations.EncodeRefusesInOrder : Prop :=
  ∀ (s : State) (cmd flags version : Byte) (body : Bytes) (err : Option Byte) (dstCap : Word),
    (version ≠ 1#8 →
      exec (.encode cmd flags body err version dstCap) s =
        .next { s with status := ⟨.argsError, .version⟩, response := some ⟨.argsError, .version, .none⟩ }) ∧
    (version = 1#8 → dstCap.toNat < body.length + 12 + (if err = none then 0 else 1) →
      exec (.encode cmd flags body err version dstCap) s =
        .next { s with status := ⟨.argsError, .capacity⟩, response := some ⟨.argsError, .capacity, .none⟩ }) ∧
    (∀ t, exec (.encode cmd flags body err version dstCap) s = .next t → t.status.reason ≠ .length)

/-- ENC_RESP_OK, ENC_REPORT and ENC_RESP_ERR are ENCODE with the flags 0xC0, 0xE0 and 0x80 and version 1, and FALLBACK is
ENC_RESP_ERR with ERRCODE_ARGS and "Unsupported command" (30_encoding.md R120, 60_exceptions.md R348). -/
def Obligations.ConvenienceEncodingsExpand : Prop :=
  ∀ (s : State) (cmd code : Byte) (body : Bytes) (cap : Word),
    exec (.encRespOk cmd body cap) s = exec (.encode cmd 0xC0#8 body none 1#8 cap) s ∧
    exec (.encReport cmd body cap) s = exec (.encode cmd 0xE0#8 body none 1#8 cap) s ∧
    exec (.encRespErr cmd code body cap) s = exec (.encode cmd 0x80#8 body (some code) 1#8 cap) s ∧
    exec (fallbackInstr s.cfg cmd cap) s =
      exec (.encode cmd 0x80#8 [0x55, 0x6E, 0x73, 0x75, 0x70, 0x70, 0x6F, 0x72, 0x74, 0x65, 0x64, 0x20, 0x63, 0x6F, 0x6D,
        0x6D, 0x61, 0x6E, 0x64] (some s.cfg.errcodeArgs) 1#8 cap) s

/-- The convenience encodings, host OPs 2 to 4, answer their frames, with the flags bytes 0xC1, 0xE1 and 0x81, when the destination holds
them, and ARGS_ERROR reason 2 when it does not; each writes STATUS alone (41_framer.md R170, R171, R172). -/
def Obligations.ConvenienceEncodingsComplete : Prop :=
  (∀ a : Args,
    decode (.host ⟨0x02#8, a⟩) = .ok (.encRespOk a.cmd a.bytes a.dstCap) ∧
    decode (.host ⟨0x03#8, a⟩) = .ok (.encReport a.cmd a.bytes a.dstCap) ∧
    decode (.host ⟨0x04#8, a⟩) = .ok (.encRespErr a.cmd a.code a.bytes a.dstCap)) ∧
  ∀ (s : State) (cmd code : Byte) (body : Bytes) (cap : Word),
    (body.length + 12 ≤ cap.toNat →
      exec (.encRespOk cmd body cap) s =
        .next { s with
          status := ⟨.ok, .none⟩
          response := some ⟨.ok, .none, .frame (wireFrame s.cfgMagic (body.length + 4) 0xC1#8 cmd body)⟩ } ∧
      exec (.encReport cmd body cap) s =
        .next { s with
          status := ⟨.ok, .none⟩
          response := some ⟨.ok, .none, .frame (wireFrame s.cfgMagic (body.length + 4) 0xE1#8 cmd body)⟩ }) ∧
    (body.length + 13 ≤ cap.toNat →
      exec (.encRespErr cmd code body cap) s =
        .next { s with
          status := ⟨.ok, .none⟩
          response := some ⟨.ok, .none, .frame (wireFrame s.cfgMagic
            (if s.cfg.errLenMode = .exact then body.length + 5 else body.length + 4) 0x81#8 cmd (code :: body))⟩ }) ∧
    (cap.toNat < body.length + 12 →
      exec (.encRespOk cmd body cap) s =
        .next { s with status := ⟨.argsError, .capacity⟩, response := some ⟨.argsError, .capacity, .none⟩ } ∧
      exec (.encReport cmd body cap) s =
        .next { s with status := ⟨.argsError, .capacity⟩, response := some ⟨.argsError, .capacity, .none⟩ }) ∧
    (cap.toNat < body.length + 13 →
      exec (.encRespErr cmd code body cap) s =
        .next { s with status := ⟨.argsError, .capacity⟩, response := some ⟨.argsError, .capacity, .none⟩ })

/-! ## The deframer -/

/-- The decode function step by step, in the order of 42_deframer.md R190: fewer than 12 bytes; no magic; and from the least
offset where the magic stands, the header, the length, the length floor, the CRC, the version, and the message. -/
def Obligations.DecodeAtTakesItsStepsInOrder : Prop :=
  ∀ (buf : Bytes) (magic : Word),
    (buf.length < 12 → decodeAt buf magic = .incomplete) ∧
    (12 ≤ buf.length → (∀ k, k + 4 ≤ buf.length → slice buf k (k + 4) ≠ le32 magic) →
      decodeAt buf magic = .notFound (buf.length - 3) .noMagic) ∧
    ∀ (i len : Nat), 12 ≤ buf.length → magicAt buf magic i → len = rdLe32 buf (i + 4) →
      (buf.length < i + 12 → decodeAt buf magic = .incomplete) ∧
      (i + 12 ≤ buf.length → buf.length < i + 8 + len → decodeAt buf magic = .incomplete) ∧
      (i + 12 ≤ buf.length → i + 8 + len ≤ buf.length → len < 4 →
        decodeAt buf magic = .notFound (i + 8 + len) .badLength) ∧
      (i + 8 + len ≤ buf.length → 4 ≤ len →
        (crc16 (slice buf i (i + 6 + len))).toNat ≠ rdLe16 buf (i + 6 + len) →
        decodeAt buf magic = .notFound (i + 8 + len) .crc) ∧
      (i + 8 + len ≤ buf.length → 4 ≤ len →
        (crc16 (slice buf i (i + 6 + len))).toNat = rdLe16 buf (i + 6 + len) →
        (byteAt buf (i + 8)).extractLsb' 0 2 ≠ 1#2 →
        decodeAt buf magic = .notFound (i + 8 + len) .badVersion) ∧
      (i + 8 + len ≤ buf.length → 4 ≤ len →
        (crc16 (slice buf i (i + 6 + len))).toNat = rdLe16 buf (i + 6 + len) →
        (byteAt buf (i + 8)).extractLsb' 0 2 = 1#2 →
        decodeAt buf magic =
          .found { flags := byteAt buf (i + 8), cmd := byteAt buf (i + 9), body := slice buf (i + 10) (i + 6 + len),
                   hasBeenReplied := false } (i + 8 + len))

/-- DECODE_AT, host OP 5, answers the decode function's outcome on its buffer, writes STATUS and `last_skip <- 0`, and touches nothing
else (42_deframer.md R203). -/
def Obligations.DecodeAtAnswersTheOutcome : Prop :=
  (∀ a : Args, decode (.host ⟨0x05#8, a⟩) = .ok (.decodeAt a.bytes a.magic)) ∧
  ∀ (buffer : Bytes) (magic : Word) (s : State),
    (∀ m c, decodeAt buffer magic = .found m c →
      exec (.decodeAt buffer magic) s =
        .next { s with lastSkip := 0#32, status := ⟨.ok, .none⟩, response := some ⟨.ok, .none, .found m c⟩ }) ∧
    (∀ k why, decodeAt buffer magic = .notFound k why →
      exec (.decodeAt buffer magic) s =
        .next { s with
          lastSkip := 0#32
          status := ⟨.notFound, why⟩
          response := some ⟨.notFound, why, .notFound k⟩ }) ∧
    (decodeAt buffer magic = .incomplete →
      exec (.decodeAt buffer magic) s =
        .next { s with
          lastSkip := 0#32
          status := ⟨.incomplete, .none⟩
          response := some ⟨.incomplete, .none, .incomplete⟩ })

/-- Round trip: what ENCODE answers, decoded with the engine's magic, gives back the flags with version 1, the cmd and the
body, and consumes the whole frame; with an error code in EXACT mode the decoded body is the code and then the body. This is
an inference the spec marks as its own, 41_framer.md R169. -/
def Obligations.EncodeDecodeRoundTrip : Prop :=
  ∀ (s : State) (cmd flags : Byte) (body : Bytes) (cap : Word), flags.extractLsb' 0 2 = 0#2 →
    (body.length + 12 ≤ cap.toNat →
      ∃ (f : Bytes) (t : State), exec (.encode cmd flags body none 1#8 cap) s = .next t ∧
        t.response = some ⟨.ok, .none, .frame f⟩ ∧ f.length = body.length + 12 ∧
        decodeAt f s.cfgMagic = .found ⟨flags ||| 1#8, cmd, body, false⟩ f.length) ∧
    (∀ e : Byte, s.cfg.errLenMode = .exact → body.length + 13 ≤ cap.toNat →
      ∃ (f : Bytes) (t : State), exec (.encode cmd flags body (some e) 1#8 cap) s = .next t ∧
        t.response = some ⟨.ok, .none, .frame f⟩ ∧ f.length = body.length + 13 ∧
        decodeAt f s.cfgMagic = .found ⟨flags ||| 1#8, cmd, e :: body, false⟩ f.length)

/-- Resynchronization: a valid frame behind noise that holds no earlier magic, with any bytes after it, is delivered by one
TRY_DECODE, which discards the noise and the frame and leaves the bytes after it. This follows from 42_deframer.md R192 and R199
and 43_accumulator.md R236; the spec says it in 42_deframer.md R201 and R202, which it marks as its own inferences. -/
def Obligations.FrameBehindNoiseIsDelivered : Prop :=
  ∀ (s : State) (noise rest post : Bytes) (fl cmd : Byte), s.Inv → fl.extractLsb' 0 2 = 1#2 →
    s.acc = noise ++ wireFrame s.cfgMagic (rest.length + 4) fl cmd rest ++ post →
    magicAt s.acc s.cfgMagic noise.length →
    exec .tryDecode s =
      .next { s with
        acc := post
        msgValid := true
        msg := ⟨fl, cmd, rest, false⟩
        lastSkip := BitVec.ofNat 32 (noise.length + (rest.length + 12))
        status := ⟨.ok, .none⟩
        response := some ⟨.ok, .none, .message fl cmd rest⟩ }

/-- Partial delivery: a valid frame pushed in two parts, split anywhere, with a TRY_DECODE after each push, is INCOMPLETE
first, with the accumulator unchanged, and then delivered once. This is an inference the spec marks as its own,
43_accumulator.md R239. -/
def Obligations.SplitFrameIsDeliveredOnce : Prop :=
  ∀ (s : State) (rest : Bytes) (fl cmd : Byte) (k : Nat), s.Inv → s.acc = [] → fl.extractLsb' 0 2 = 1#2 →
    rest.length + 12 ≤ s.cfg.accCapacity → 0 < k → k < rest.length + 12 →
    ∃ t1 t2 t3 t4 : State,
      exec (.push ((wireFrame s.cfgMagic (rest.length + 4) fl cmd rest).take k)) s = .next t1 ∧
      exec .tryDecode t1 = .next t2 ∧ t2.status = ⟨.incomplete, .none⟩ ∧ t2.acc = t1.acc ∧ t2.msgValid = false ∧
      exec (.push ((wireFrame s.cfgMagic (rest.length + 4) fl cmd rest).drop k)) t2 = .next t3 ∧
      exec .tryDecode t3 = .next t4 ∧ t4.status = ⟨.ok, .none⟩ ∧ t4.msgValid = true ∧
      t4.msg = ⟨fl, cmd, rest, false⟩ ∧ t4.lastSkip = BitVec.ofNat 32 (rest.length + 12) ∧ t4.acc = []

/-- A LEGACY error frame fails the CRC check, leaving its last byte behind, or by a chance match is found without its last
message byte. This is an inference the spec marks as its own, 42_deframer.md R205. -/
def Obligations.LegacyErrorFrameIsMisread : Prop :=
  ∀ (magic : Word) (cmd code : Byte) (message : Bytes), message.length + 4 < 2 ^ 32 →
    decodeAt (wireFrame magic (message.length + 4) 0x81#8 cmd (code :: message)) magic =
        .notFound (message.length + 12) .crc ∨
      decodeAt (wireFrame magic (message.length + 4) 0x81#8 cmd (code :: message)) magic =
        .found ⟨0x81#8, cmd, (code :: message).dropLast, false⟩ (message.length + 12)

/-- A stalled stream stays stalled: TRY_DECODE answers INCOMPLETE and discards nothing, no operation but INIT ends the
stall, and a PUSH that does not fit answers BUFFER_FULL; INIT empties the accumulator. This is an inference the spec marks as
its own, 70_reset_and_hazards.md R380. -/
def Obligations.StallEndsOnlyByInit : Prop :=
  ∀ s : State, s.Inv → s.stalled →
    (∃ t, exec .tryDecode s = .next t ∧ t.status = ⟨.incomplete, .none⟩ ∧ t.acc = s.acc) ∧
    (∀ (i : Instr) (t : State), exec i s = .next t → (∀ m, i ≠ .init m) → t.stalled) ∧
    (∀ (data : Bytes), s.acc.length = s.cfg.accCapacity → data ≠ [] →
      ∃ t, exec (.push data) s = .next t ∧ t.status = ⟨.bufferFull, .none⟩ ∧ t.acc = s.acc) ∧
    (∀ m, ∃ t, exec (.init m) s = .next t ∧ t.acc = [])

/-! ## The dispatcher -/

/-- DISPATCH, host OP 8, selects on `msg_valid`, on bit 7 of the flags and on the cmd, and runs the arm of 44_dispatch.md R260's table:
without a message it answers NO_MESSAGE and writes STATUS alone; a response or report runs the ignore arm; a request runs the
arm of its cmd byte, as the row of request frames does. -/
def Obligations.DispatchSelectsTheArm : Prop :=
  (∀ a : Args, decode (.host ⟨0x08#8, a⟩) = .ok .dispatch) ∧
  ∀ s : State,
    (s.msgValid = false →
      exec .dispatch s =
        .next { s with status := ⟨.noMessage, .none⟩, response := some ⟨.noMessage, .none, .none⟩ }) ∧
    (s.msgValid = true → s.msg.flags.getLsbD 7 = true → exec .dispatch s = exec (.frameResponse s.msg.flags) s) ∧
    (s.msgValid = true → s.msg.flags.getLsbD 7 = false →
      exec .dispatch s = exec (.frameRequest s.msg.flags) s ∧
      (s.msg.cmd = 0xF9#8 → exec .dispatch s = exec .appList s) ∧
      (s.msg.cmd = 0xFA#8 → exec .dispatch s = exec .startApp s) ∧
      (s.msg.cmd = 0xFB#8 → exec .dispatch s = exec .exitApp s) ∧
      (s.msg.cmd = 0xFC#8 → exec .dispatch s = exec .curAppInfo s) ∧
      (s.msg.cmd = 0xFD#8 → exec .dispatch s = exec .appInfo s) ∧
      (s.msg.cmd = 0xF8#8 → exec .dispatch s = exec .setReport s) ∧
      (s.msg.cmd = 0xFE#8 → exec .dispatch s = exec .key s) ∧
      (s.msg.cmd = 0xFF#8 → exec .dispatch s = exec .touch s) ∧
      (s.msg.cmd.toNat < 0xF8 → ∀ i, decode (.cmd s.msg.cmd) = .ok i → exec .dispatch s = exec i s)) ∧
    (∀ (fl : Byte) (i : Instr), decode (.cmd s.msg.cmd) = .ok i → exec (.frameRequest fl) s = exec i s)

/-- SET_REPORT, KEY and TOUCH: nothing is sent, no collaborator is called, `replied` is 0 and the status is NOT_HANDLED
reason 3; nothing but STATUS is written (44_dispatch.md R280). -/
def Obligations.PassThroughArmsComplete : Prop :=
  ∀ s : State,
    exec .setReport s =
      .next { s with
        status := ⟨.notHandled, .passThrough⟩, response := some ⟨.notHandled, .passThrough, .replied false⟩ } ∧
    exec .key s =
      .next { s with
        status := ⟨.notHandled, .passThrough⟩, response := some ⟨.notHandled, .passThrough, .replied false⟩ } ∧
    exec .touch s =
      .next { s with
        status := ⟨.notHandled, .passThrough⟩, response := some ⟨.notHandled, .passThrough, .replied false⟩ }

/-- The arms of every other id, application or reserved: as the pass-through arms, with reason 2 (44_dispatch.md R281). -/
def Obligations.UnrecognizedArmsComplete : Prop :=
  ∀ (c : Byte) (s : State) (i : Instr),
    i ∈ [.appCmd00 c, .appCmd80 c, .appCmdC0 c, .reservedC8 c, .reservedD0 c, .reservedE0 c, .reservedF0 c] →
    exec i s =
      .next { s with
        status := ⟨.notHandled, .unrecognized⟩, response := some ⟨.notHandled, .unrecognized, .replied false⟩ }

/-- A response or report, of any cmd, is not dispatched: nothing is sent, no collaborator is called, and the status is
NOT_HANDLED reason 1 (44_dispatch.md R282). -/
def Obligations.ResponsesAreNotDispatched : Prop :=
  ∀ (fl : Byte) (s : State),
    exec (.frameResponse fl) s =
      .next { s with status := ⟨.notHandled, .response⟩, response := some ⟨.notHandled, .response, .replied false⟩ } ∧
    (s.msgValid = true → s.msg.flags.getLsbD 7 = true →
      exec .dispatch s =
        .next { s with
          status := ⟨.notHandled, .response⟩, response := some ⟨.notHandled, .response, .replied false⟩ })

/-- DISPATCH of a valid request whose id is not answered: NOT_HANDLED, reason 3 for 0xF8, 0xFE and 0xFF and reason 2 for
every id below 0xF8, with nothing written but STATUS (44_dispatch.md R260, R280, R281). -/
def Obligations.DispatchLeavesOtherIdsToTheHost : Prop :=
  ∀ s : State, s.msgValid = true → s.msg.flags.getLsbD 7 = false →
    (s.msg.cmd ∈ [0xF8#8, 0xFE#8, 0xFF#8] →
      exec .dispatch s =
        .next { s with
          status := ⟨.notHandled, .passThrough⟩, response := some ⟨.notHandled, .passThrough, .replied false⟩ }) ∧
    (s.msg.cmd.toNat < 0xF8 →
      exec .dispatch s =
        .next { s with
          status := ⟨.notHandled, .unrecognized⟩, response := some ⟨.notHandled, .unrecognized, .replied false⟩ })

/-- `split_nul` reads exactly the strings written one after the other with a 0x00 after each, and is MALFORMED on anything
else: a consequence of its pseudocode in 44_dispatch.md R268. -/
def Obligations.SplitNulReadsTerminatedStrings : Prop :=
  ∀ (r : Bytes) (toks : List Bytes),
    splitNul r = some toks ↔ r = toks.flatMap (fun t => t ++ [0x00#8]) ∧ ∀ t ∈ toks, 0x00#8 ∉ t

/-- APP_LIST, a request frame of cmd 0xF9, replies with the count and each id NUL-terminated, whatever the request's body: it
calls `list_apps`, then writes one frame, sets `has_been_replied`, and STATUS follows the sink's answer; a reply that does
not fit REPLY_CAP is not sent (44_dispatch.md R266). -/
def Obligations.AppListReplies : Prop :=
  decode (.cmd 0xF9#8) = .ok .appList ∧
  ∀ (s : State) (out : Bytes),
    out = BitVec.ofNat 8 s.env.apps.length :: s.env.apps.flatMap (fun a => a.id ++ [0x00#8]) → s.env.appsOk →
    (s.cfg.wf = true → out.length + 12 ≤ s.cfg.replyCap → s.env.sinkOk (okReply s out) →
      exec .appList s = .next (s.afterReply [.listApps] (okReply s out) false)) ∧
    (s.cfg.replyCap < out.length + 12 → exec .appList s = .next (s.afterOversize [.listApps]))

/-- START_APP with an index in range: the app is switched to by index with the second string as argument, the Result is not
consulted, and the reply is ok with an empty body (44_dispatch.md R269, R270). -/
def Obligations.StartAppByIndexReplies : Prop :=
  ∀ (s : State) (idx : Byte) (rest : Bytes) (toks : List Bytes),
    s.msg.body = idx :: rest → splitNul rest = some toks → toks.length ≤ 2 → idx ≠ 0xFF#8 →
    idx.toNat < s.env.apps.length → s.cfg.wf = true → s.env.appsOk → s.env.sinkOk (okReply s []) →
    exec .startApp s =
      .next (s.afterReply [.listApps, .switchApp (.index idx) (toks.getD 1 [])] (okReply s []) false)

/-- START_APP with index 0xFF and an id: the app is switched to by that id, which is not looked up, `list_apps` is not
called, and the reply is ok with an empty body (44_dispatch.md R269, R270). -/
def Obligations.StartAppByIdReplies : Prop :=
  ∀ (s : State) (rest name : Bytes) (more : List Bytes),
    s.msg.body = 0xFF#8 :: rest → splitNul rest = some (name :: more) → more.length ≤ 1 → name ≠ [] →
    s.cfg.wf = true → s.env.sinkOk (okReply s []) →
    exec .startApp s = .next (s.afterReply [.switchApp (.id name) (more.getD 0 [])] (okReply s []) false)

/-- START_APP's error replies: ERR_ARGS with no call before it for an empty body, a body with trailing bytes and no NUL,
three strings or more, or index 0xFF with an empty or missing id; ERR_NOT_FOUND after `list_apps` for an index out of
range (44_dispatch.md R269, R270, R271). -/
def Obligations.StartAppErrorReplies : Prop :=
  ∀ s : State, s.cfg.wf = true →
    (s.env.sinkOk (errReply s s.cfg.errcodeArgs .startArgs) →
      (s.msg.body = [] ∨
        (∃ idx rest, s.msg.body = idx :: rest ∧
          (splitNul rest = none ∨ ∃ toks, splitNul rest = some toks ∧
            (2 < toks.length ∨ (idx = 0xFF#8 ∧ toks.getD 0 [] = []))))) →
      exec .startApp s = .next (s.afterReply [] (errReply s s.cfg.errcodeArgs .startArgs) true)) ∧
    (∀ idx rest toks, s.env.sinkOk (errReply s s.cfg.errcodeNotFound .startNotFound) →
      s.msg.body = idx :: rest → splitNul rest = some toks → toks.length ≤ 2 → idx ≠ 0xFF#8 →
      s.env.apps.length ≤ idx.toNat → s.env.appsOk →
      exec .startApp s = .next (s.afterReply [.listApps] (errReply s s.cfg.errcodeNotFound .startNotFound) true))

/-- EXIT_APP, a request frame of cmd 0xFB, whatever its body: on an ok answer of `request_exit` the reply is ok with an empty
body and `exit_req` is set, even when the write fails; on a failure the collaborator's own code is replied and `exit_req` is
unchanged (44_dispatch.md R272). -/
def Obligations.ExitAppReplies : Prop :=
  decode (.cmd 0xFB#8) = .ok .exitApp ∧
  ∀ s : State, s.cfg.wf = true →
    (s.env.exitResult = .ok → s.env.sinkOk (okReply s []) →
      exec .exitApp s = .next ({ s with exitReq := true }.afterReply [.requestExit] (okReply s []) false)) ∧
    (∀ e, s.env.exitResult = .err e → s.env.sinkOk (errReply s e .exitFail) →
      exec .exitApp s = .next (s.afterReply [.requestExit] (errReply s e .exitFail) true))

/-- CUR_APP_INFO, a request frame of cmd 0xFC, whatever its body, replies with the least index of the current app, or 0xFF when
the registry does not hold it, and the app's id NUL-terminated; a reply that does not fit REPLY_CAP is not sent
(44_dispatch.md R274). -/
def Obligations.CurAppInfoReplies : Prop :=
  decode (.cmd 0xFC#8) = .ok .curAppInfo ∧
  ∀ s : State, s.env.appsOk → s.env.currentOk →
    (∀ k a, s.cfg.wf = true → s.env.currentApp.length + 14 ≤ s.cfg.replyCap →
      s.env.apps[k]? = some a → a.id = s.env.currentApp →
      (∀ (j : Nat) (b : AppRecord), j < k → s.env.apps[j]? = some b → b.id ≠ s.env.currentApp) →
      s.env.sinkOk (okReply s (BitVec.ofNat 8 k :: (s.env.currentApp ++ [0x00#8]))) →
      exec .curAppInfo s =
        .next (s.afterReply [.currentAppId, .listApps]
          (okReply s (BitVec.ofNat 8 k :: (s.env.currentApp ++ [0x00#8]))) false)) ∧
    (s.cfg.wf = true → s.env.currentApp.length + 14 ≤ s.cfg.replyCap →
      (∀ a ∈ s.env.apps, a.id ≠ s.env.currentApp) →
      s.env.sinkOk (okReply s (0xFF#8 :: (s.env.currentApp ++ [0x00#8]))) →
      exec .curAppInfo s =
        .next (s.afterReply [.currentAppId, .listApps]
          (okReply s (0xFF#8 :: (s.env.currentApp ++ [0x00#8]))) false)) ∧
    (s.cfg.replyCap < s.env.currentApp.length + 14 →
      exec .curAppInfo s = .next (s.afterOversize [.currentAppId, .listApps]))

/-- APP_INFO of an app named by index, or by id (the least index holding it): the reply is the index and the id, name and
description, each NUL-terminated (44_dispatch.md R275, R276, R277). -/
def Obligations.AppInfoReplies : Prop :=
  ∀ (s : State) (idx : Byte) (rest : Bytes) (toks : List Bytes) (k : Nat) (a : AppRecord) (out : Bytes),
    s.msg.body = idx :: rest → splitNul rest = some toks → toks.length ≤ 1 → s.env.apps[k]? = some a →
    ((idx ≠ 0xFF#8 ∧ idx.toNat = k) ∨
      (idx = 0xFF#8 ∧ toks = [a.id] ∧ a.id ≠ [] ∧
        ∀ (j : Nat) (b : AppRecord), j < k → s.env.apps[j]? = some b → b.id ≠ a.id)) →
    out = BitVec.ofNat 8 k :: ((a.id ++ [0x00#8]) ++ (a.name ++ [0x00#8]) ++ (a.description ++ [0x00#8])) →
    s.cfg.wf = true → s.env.appsOk → out.length + 12 ≤ s.cfg.replyCap → s.env.sinkOk (okReply s out) →
    exec .appInfo s = .next (s.afterReply [.listApps] (okReply s out) false)

/-- APP_INFO's error replies are all ERR_ARGS: with no call before it for an empty body, trailing bytes with no NUL or two
strings or more; after `list_apps` for an index out of range, an empty or missing id with index 0xFF, or an unknown id
(44_dispatch.md R276, R277). -/
def Obligations.AppInfoErrorReplies : Prop :=
  ∀ s : State, s.cfg.wf = true → s.env.sinkOk (errReply s s.cfg.errcodeArgs .infoArgs) →
    ((s.msg.body = [] ∨
        (∃ idx rest, s.msg.body = idx :: rest ∧
          (splitNul rest = none ∨ ∃ toks, splitNul rest = some toks ∧ 1 < toks.length))) →
      exec .appInfo s = .next (s.afterReply [] (errReply s s.cfg.errcodeArgs .infoArgs) true)) ∧
    (∀ idx rest toks, s.msg.body = idx :: rest → splitNul rest = some toks → toks.length ≤ 1 → s.env.appsOk →
      ((idx ≠ 0xFF#8 ∧ s.env.apps.length ≤ idx.toNat) ∨ (idx = 0xFF#8 ∧ toks.getD 0 [] = []) ∨
        (idx = 0xFF#8 ∧ ∀ a ∈ s.env.apps, a.id ≠ toks.getD 0 [])) →
      exec .appInfo s = .next (s.afterReply [.listApps] (errReply s s.cfg.errcodeArgs .infoArgs) true))

/-- APP_INFO's ok reply larger than REPLY_CAP is not sent, whichever way the app is named: `list_apps` is called, no write is
made, `has_been_replied` is unchanged and the status is ARGS_ERROR reason 4 (44_dispatch.md R262, R276). -/
def Obligations.OversizeAppInfoIsNotSent : Prop :=
  ∀ (s : State) (idx : Byte) (rest : Bytes) (toks : List Bytes) (k : Nat) (a : AppRecord),
    s.msg.body = idx :: rest → splitNul rest = some toks → toks.length ≤ 1 → s.env.apps[k]? = some a →
    ((idx ≠ 0xFF#8 ∧ idx.toNat = k) ∨
      (idx = 0xFF#8 ∧ toks = [a.id] ∧ a.id ≠ [] ∧
        ∀ (j : Nat) (b : AppRecord), j < k → s.env.apps[j]? = some b → b.id ≠ a.id)) →
    s.env.appsOk → s.cfg.replyCap < a.id.length + a.name.length + a.description.length + 16 →
    exec .appInfo s = .next (s.afterOversize [.listApps])

/-- START_APP and EXIT_APP never meet a reply too large: their ok replies are empty, and REPLY_CAP holds every error reply
(00_scope.md R9, 44_dispatch.md R269, R272). -/
def Obligations.StartAndExitRepliesFit : Prop :=
  ∀ s t : State, s.cfg.wf = true → (exec .startApp s = .next t ∨ exec .exitApp s = .next t) →
    t.status.last ≠ .argsError ∧ t.msg.hasBeenReplied = true

/-- Dispatcher completeness: with agents that keep their duties, replies that fit and a sink that writes every byte, DISPATCH
of a request of each id 0xF9 to 0xFD, well formed or not, writes exactly one frame, which carries the request's cmd, and
marks the message as replied; for every other id it answers NOT_HANDLED, writes nothing and leaves the message as it is. The
row of request frames, which DISPATCH runs, answers the same. This is an inference the spec marks as its own, 44_dispatch.md
R283. -/
def Obligations.DispatcherIsComplete : Prop :=
  ∀ s : State, s.cfg.wf = true → s.env.appsOk → s.env.currentOk → s.env.sink = .all → s.repliesFit →
    s.msgValid = true → s.msg.flags.getLsbD 7 = false →
    (0xF9 ≤ s.msg.cmd.toNat → s.msg.cmd.toNat ≤ 0xFD →
      ∃ (f : Bytes) (t : State), exec .dispatch s = .next t ∧ (∀ fl, exec (.frameRequest fl) s = .next t) ∧
        t.wire = s.wire ++ [f] ∧ byteAt f 9 = s.msg.cmd ∧ t.msg.hasBeenReplied = true ∧ t.status.last = .ok) ∧
    (¬ (0xF9 ≤ s.msg.cmd.toNat ∧ s.msg.cmd.toNat ≤ 0xFD) →
      ∃ t : State, exec .dispatch s = .next t ∧ (∀ fl, exec (.frameRequest fl) s = .next t) ∧ t.wire = s.wire ∧
        t.msg = s.msg ∧ t.status.last = .notHandled)

/-- DISPATCH does not look at `has_been_replied`: a second DISPATCH of the same message, with the same answers, makes the
same calls and writes the same reply again (44_dispatch.md R263, 70_reset_and_hazards.md R383). -/
def Obligations.SecondDispatchRepeatsTheReply : Prop :=
  ∀ s t : State, s.msgValid = true → exec .dispatch s = .next t →
    ∃ (made : List AgentCall) (u : State), t.calls = s.calls ++ made ∧ exec .dispatch t = .next u ∧
      u.calls = t.calls ++ made ∧ u.status = t.status

/-! ## The mode of error frames -/

/-- The length field of an error frame, written by ENCODE with an error code or by ENC_RESP_ERR: in EXACT mode `m + 5`, which
counts every byte after it, and in LEGACY mode `m + 4`, one byte too few. The default mode is EXACT, and a frame without an error code is the same in both modes (30_encoding.md R103). -/
def Obligations.ErrorFrameLengthFollowsTheMode : Prop :=
  Config.defaultErrLenMode = .exact ∧
  ∀ (s : State) (cmd flags e : Byte) (body : Bytes) (cap : Word),
    (∀ i : Instr, i ∈ [.encode cmd flags body (some e) 1#8 cap, .encRespErr cmd e body cap] →
      body.length + 13 ≤ cap.toNat →
      ∃ (f : Bytes) (t : State), exec i s = .next t ∧ t.response = some ⟨.ok, .none, .frame f⟩ ∧
        (s.cfg.errLenMode = .exact → rdLe32 f 4 = body.length + 5 ∧ f.length = 8 + rdLe32 f 4) ∧
        (s.cfg.errLenMode = .legacy → rdLe32 f 4 = body.length + 4 ∧ f.length = 8 + rdLe32 f 4 + 1)) ∧
    (∀ (i : Instr) (mode : ErrLenMode),
      i ∈ [.encode cmd flags body none 1#8 cap, .encRespOk cmd body cap, .encReport cmd body cap] →
      body.length + 12 ≤ cap.toNat →
      ∃ (f : Bytes) (t u : State), exec i s = .next t ∧ t.response = some ⟨.ok, .none, .frame f⟩ ∧
        exec i { s with cfg := { s.cfg with errLenMode := mode } } = .next u ∧
        u.response = some ⟨.ok, .none, .frame f⟩)
end

