-- ==== Sys2Proof/Laws/Bytes.lean ====
section
/-! SUPPORT. Byte strings: slices, bytes at an offset, little-endian fields, and NUL-terminated strings. -/

namespace Sys2Proof.Machine

@[simp] theorem slice_length (b : Bytes) (j k : Nat) : (slice b j k).length = min k b.length - j := by
  simp [slice]

theorem slice_to_end (b : Bytes) (j : Nat) : slice b j b.length = b.drop j := by simp [slice]

/-- A slice that ends inside the first of two joined strings does not see the second. -/
theorem slice_append_left (a b : Bytes) (j k : Nat) (h : k ≤ a.length) : slice (a ++ b) j k = slice a j k := by
  simp [slice, List.take_append_of_le_length h]

/-- A slice that begins after the first of two joined strings is a slice of the second. -/
theorem slice_append_right (a b : Bytes) (j k : Nat) : slice (a ++ b) (a.length + j) (a.length + k) = slice b j k := by
  simp [slice, List.take_append, List.drop_append]

/-- The whole of the middle of three joined strings. -/
theorem slice_middle (a b c : Bytes) (j k : Nat) (hj : j = a.length) (hk : k = a.length + b.length) :
    slice (a ++ b ++ c) j k = b := by
  subst hj hk
  simp [slice, List.take_append]

theorem byteAt_append_left (a b : Bytes) (k : Nat) (h : k < a.length) : byteAt (a ++ b) k = byteAt a k := by
  simp [byteAt, List.getElem?_append_left h]

theorem byteAt_append_right (a b : Bytes) (k : Nat) : byteAt (a ++ b) (a.length + k) = byteAt b k := by
  simp [byteAt, List.getElem?_append_right]

theorem byteAt_of_lt (a : Bytes) (k : Nat) (h : k < a.length) : byteAt a k = a[k] := by
  simp [byteAt, h]

@[simp] theorem le32_length (v : Word) : (le32 v).length = 4 := rfl
@[simp] theorem le16_length (v : BitVec 16) : (le16 v).length = 2 := rfl

theorem rdLe32_append_left (a b : Bytes) (k : Nat) (h : k + 4 ≤ a.length) : rdLe32 (a ++ b) k = rdLe32 a k := by
  simp only [rdLe32]
  rw [byteAt_append_left _ _ _ (by omega), byteAt_append_left _ _ _ (by omega),
    byteAt_append_left _ _ _ (by omega), byteAt_append_left _ _ _ (by omega)]

theorem rdLe32_append_right (a b : Bytes) (k : Nat) : rdLe32 (a ++ b) (a.length + k) = rdLe32 b k := by
  simp only [rdLe32, Nat.add_assoc, byteAt_append_right]

theorem rdLe16_append_left (a b : Bytes) (k : Nat) (h : k + 2 ≤ a.length) : rdLe16 (a ++ b) k = rdLe16 a k := by
  simp only [rdLe16]
  rw [byteAt_append_left _ _ _ (by omega), byteAt_append_left _ _ _ (by omega)]

theorem rdLe16_append_right (a b : Bytes) (k : Nat) : rdLe16 (a ++ b) (a.length + k) = rdLe16 b k := by
  simp only [rdLe16, Nat.add_assoc, byteAt_append_right]

/-- Reading back a little-endian 32-bit field. -/
theorem rdLe32_le32 (v : Word) (rest : Bytes) : rdLe32 (le32 v ++ rest) 0 = v.toNat := by
  have h := v.isLt
  simp only [rdLe32, byteAt, le32, List.cons_append, List.getD_cons_zero, List.getD_cons_succ, Nat.zero_add,
    BitVec.extractLsb'_toNat]
  simp only [Nat.shiftRight_eq_div_pow]
  omega

/-- Reading back a little-endian 16-bit field. -/
theorem rdLe16_le16 (v : BitVec 16) (rest : Bytes) : rdLe16 (le16 v ++ rest) 0 = v.toNat := by
  have h := v.isLt
  simp only [rdLe16, byteAt, le16, List.cons_append, List.getD_cons_zero, List.getD_cons_succ, Nat.zero_add,
    BitVec.extractLsb'_toNat]
  simp only [Nat.shiftRight_eq_div_pow]
  omega

@[simp] theorem cstr_length (s : Bytes) : (cstr s).length = s.length + 1 := by simp [cstr]

/-! ### split_nul -/

/-- A string without 0x00 is gathered into the token in progress. -/
theorem splitNulFrom_noNul (cur : Bytes) (toks : List Bytes) (t r : Bytes) (h : noNul t = true) :
    splitNulFrom cur toks (t ++ r) = splitNulFrom (cur ++ t) toks r := by
  induction t generalizing cur with
  | nil => simp
  | cons b t ih =>
    simp only [noNul, List.all_cons, Bool.and_eq_true, decide_eq_true_eq] at h
    simp only [List.cons_append, splitNulFrom, if_neg h.1]
    rw [ih _ (by simpa [noNul] using h.2)]
    simp

/-- A NUL-terminated string ends the token in progress. -/
theorem splitNulFrom_cstr (toks : List Bytes) (t r : Bytes) (h : noNul t = true) :
    splitNulFrom [] toks (cstr t ++ r) = splitNulFrom [] (toks ++ [t]) r := by
  simp only [cstr, List.append_assoc]
  rw [splitNulFrom_noNul _ _ _ _ h]
  simp [splitNulFrom]

end Sys2Proof.Machine
end

