-- ==== Sys2Proof/Laws/Deframer.lean ====
section
/-! SUPPORT. The deframer: what the header search finds, everything the decode function can answer, and what it answers on a
frame of 30_encoding.md rule R100. -/

namespace Sys2Proof.Machine

/-- The search finds the least offset where the magic stands. -/
theorem findMagic_eq_some (buf : Bytes) (magic : Word) (i : Nat) :
    findMagic buf magic = some i ↔ magicAt buf magic i := by
  simp only [findMagic, List.find?_range_eq_some, magicAt, List.mem_range, decide_eq_true_eq]
  constructor
  · rintro ⟨h1, h2, h3⟩
    exact ⟨by omega, h1, fun k hk => by simpa using h3 k hk⟩
  · rintro ⟨h1, h2, h3⟩
    exact ⟨h2, by omega, fun k hk => by simpa using h3 k hk⟩

/-- The search finds nothing when the magic stands at no offset. -/
theorem findMagic_eq_none (buf : Bytes) (magic : Word) :
    findMagic buf magic = none ↔ ∀ k, k + 4 ≤ buf.length → slice buf k (k + 4) ≠ le32 magic := by
  simp only [findMagic, List.find?_range_eq_none]
  constructor
  · intro h k hk; simpa using h k (by omega)
  · intro h k hk; simpa using h k (by omega)

theorem decodeAt_short (buf : Bytes) (magic : Word) (h : buf.length < 12) : decodeAt buf magic = .incomplete := by
  simp [decodeAt, h]

theorem decodeAt_noMagic (buf : Bytes) (magic : Word) (h : 12 ≤ buf.length)
    (hn : ∀ k, k + 4 ≤ buf.length → slice buf k (k + 4) ≠ le32 magic) :
    decodeAt buf magic = .notFound (buf.length - 3) .noMagic := by
  have : ¬ buf.length < 12 := by omega
  simp [decodeAt, this, (findMagic_eq_none buf magic).2 hn]

theorem decodeAt_magic (buf : Bytes) (magic : Word) (i : Nat) (h : 12 ≤ buf.length) (hm : magicAt buf magic i) :
    decodeAt buf magic = decodeFrom buf i := by
  have : ¬ buf.length < 12 := by omega
  simp [decodeAt, this, (findMagic_eq_some buf magic i).2 hm]

/-- How far each way of finding no frame skips (43_accumulator.md rule R238). -/
def leastSkip : Reason → Nat
  | .noMagic => 9
  | .badLength => 8
  | _ => 12

/-- What an outcome of the decode function says of the buffer: a found frame lies inside it, carries a message of version 1
that is fresh and fits the frame, and a skip stays inside it and makes progress. -/
def decodedOk (buf : Bytes) : Decoded → Prop
  | .found m c =>
    12 ≤ c ∧ c ≤ buf.length ∧ m.hasBeenReplied = false ∧ m.version = Config.protoVersion ∧ m.body.length + 12 ≤ c
  | .notFound k why =>
    leastSkip why ≤ k ∧ k ≤ buf.length ∧ legalStatus .notFound why = true
  | .incomplete => True

theorem decodeFrom_ok (buf : Bytes) (i : Nat) (hi : i ≤ buf.length) : decodedOk buf (decodeFrom buf i) := by
  unfold decodeFrom
  split_ifs with h1 h2 h3 h4 h5
  · trivial
  · trivial
  · simp only [decodedOk, leastSkip, legalStatus, and_true]; omega
  · simp only [decodedOk, leastSkip, legalStatus, and_true]; omega
  · simp only [decodedOk, leastSkip, legalStatus, and_true]; omega
  · refine ⟨by omega, by omega, rfl, ?_, ?_⟩
    · simpa [versionOk, Message.version, parseMessage] using h5
    · simp [parseMessage]; omega

/-- Everything the decode function can answer. -/
theorem decodeAt_ok (buf : Bytes) (magic : Word) : decodedOk buf (decodeAt buf magic) := by
  unfold decodeAt
  split
  · trivial
  · split
    · simp only [decodedOk, leastSkip, legalStatus, and_true]; omega
    · next i h =>
      have := (findMagic_eq_some buf magic i).1 h
      exact decodeFrom_ok buf i (by have := this.1; omega)

/-! ### Frames -/

/-- A frame before its CRC. -/
def frameBytes (magic : Word) (length : Nat) (flagsVersion cmd : Byte) (rest : Bytes) : Bytes :=
  le32 magic ++ le32 (BitVec.ofNat 32 length) ++ [flagsVersion, cmd] ++ rest

theorem wireFrame_eq (magic : Word) (length : Nat) (fl cmd : Byte) (rest : Bytes) :
    wireFrame magic length fl cmd rest =
      frameBytes magic length fl cmd rest ++ le16 (crc16 (frameBytes magic length fl cmd rest)) := rfl

@[simp] theorem frameBytes_length (magic : Word) (length : Nat) (fl cmd : Byte) (rest : Bytes) :
    (frameBytes magic length fl cmd rest).length = rest.length + 10 := by
  simp [frameBytes]; omega

@[simp] theorem wireFrame_length (magic : Word) (length : Nat) (fl cmd : Byte) (rest : Bytes) :
    (wireFrame magic length fl cmd rest).length = rest.length + 12 := by
  simp [wireFrame_eq]

/-- The magic of a frame stands at its first byte. -/
theorem slice_wireFrame_magic (pre : Bytes) (magic : Word) (length : Nat) (fl cmd : Byte) (rest post : Bytes) :
    slice (pre ++ wireFrame magic length fl cmd rest ++ post) pre.length (pre.length + 4) = le32 magic := by
  have : pre ++ wireFrame magic length fl cmd rest ++ post =
      pre ++ le32 magic ++ (le32 (BitVec.ofNat 32 length) ++ [fl, cmd] ++ rest ++
        le16 (crc16 (frameBytes magic length fl cmd rest)) ++ post) := by
    simp [wireFrame_eq, frameBytes]
  rw [this]
  exact slice_middle _ _ _ _ _ rfl rfl

/-- The length field of a frame. -/
theorem rdLe32_wireFrame (pre : Bytes) (magic : Word) (length : Nat) (fl cmd : Byte) (rest post : Bytes)
    (h : length < 2 ^ 32) :
    rdLe32 (pre ++ wireFrame magic length fl cmd rest ++ post) (pre.length + 4) = length := by
  have : pre ++ wireFrame magic length fl cmd rest ++ post =
      (pre ++ le32 magic) ++ (le32 (BitVec.ofNat 32 length) ++ ([fl, cmd] ++ rest ++
        le16 (crc16 (frameBytes magic length fl cmd rest)) ++ post)) := by
    simp [wireFrame_eq, frameBytes]
  rw [this, show pre.length + 4 = (pre ++ le32 magic).length + 0 by simp, rdLe32_append_right, rdLe32_le32]
  simp only [BitVec.toNat_ofNat]
  exact Nat.mod_eq_of_lt h

theorem byteAt_wireFrame_flags (pre : Bytes) (magic : Word) (length : Nat) (fl cmd : Byte) (rest post : Bytes) :
    byteAt (pre ++ wireFrame magic length fl cmd rest ++ post) (pre.length + 8) = fl := by
  have : pre ++ wireFrame magic length fl cmd rest ++ post =
      (pre ++ le32 magic ++ le32 (BitVec.ofNat 32 length)) ++ ([fl, cmd] ++ rest ++
        le16 (crc16 (frameBytes magic length fl cmd rest)) ++ post) := by
    simp [wireFrame_eq, frameBytes]
  rw [this, show pre.length + 8 = (pre ++ le32 magic ++ le32 (BitVec.ofNat 32 length)).length + 0 by simp,
    byteAt_append_right]
  rfl

theorem byteAt_wireFrame_cmd (pre : Bytes) (magic : Word) (length : Nat) (fl cmd : Byte) (rest post : Bytes) :
    byteAt (pre ++ wireFrame magic length fl cmd rest ++ post) (pre.length + 9) = cmd := by
  have : pre ++ wireFrame magic length fl cmd rest ++ post =
      (pre ++ le32 magic ++ le32 (BitVec.ofNat 32 length)) ++ ([fl, cmd] ++ rest ++
        le16 (crc16 (frameBytes magic length fl cmd rest)) ++ post) := by
    simp [wireFrame_eq, frameBytes]
  rw [this, show pre.length + 9 = (pre ++ le32 magic ++ le32 (BitVec.ofNat 32 length)).length + 1 by simp,
    byteAt_append_right]
  rfl

/-- The decode function from a frame of exact length: the frame is delivered when its version is 1, and its span is
skipped when it is not. -/
theorem decodeFrom_frame (pre : Bytes) (magic : Word) (fl cmd : Byte) (rest post : Bytes)
    (h : rest.length + 4 < 2 ^ 32) :
    decodeFrom (pre ++ wireFrame magic (rest.length + 4) fl cmd rest ++ post) pre.length =
      if versionOk fl then .found ⟨fl, cmd, rest, false⟩ (pre.length + (rest.length + 12))
      else .notFound (pre.length + (rest.length + 12)) .badVersion := by
  have hl := rdLe32_wireFrame pre magic (rest.length + 4) fl cmd rest post h
  have hlen : (pre ++ wireFrame magic (rest.length + 4) fl cmd rest ++ post).length =
      pre.length + (rest.length + 12) + post.length := by simp; omega
  have hcrc : crcMatches (pre ++ wireFrame magic (rest.length + 4) fl cmd rest ++ post) pre.length
      (rest.length + 4) = true := by
    have e : pre ++ wireFrame magic (rest.length + 4) fl cmd rest ++ post =
        pre ++ frameBytes magic (rest.length + 4) fl cmd rest ++
          (le16 (crc16 (frameBytes magic (rest.length + 4) fl cmd rest)) ++ post) := by
      simp [wireFrame_eq]
    simp only [crcMatches, e]
    rw [slice_middle pre _ _ _ _ rfl (by simp; omega),
      show pre.length + 6 + (rest.length + 4) =
        (pre ++ frameBytes magic (rest.length + 4) fl cmd rest).length + 0 by simp; omega,
      rdLe16_append_right, rdLe16_le16]
    simp
  have hbody : slice (pre ++ wireFrame magic (rest.length + 4) fl cmd rest ++ post) (pre.length + 10)
      (pre.length + 6 + (rest.length + 4)) = rest := by
    have e : pre ++ wireFrame magic (rest.length + 4) fl cmd rest ++ post =
        (pre ++ (le32 magic ++ le32 (BitVec.ofNat 32 (rest.length + 4)) ++ [fl, cmd])) ++ rest ++
          (le16 (crc16 (frameBytes magic (rest.length + 4) fl cmd rest)) ++ post) := by
      simp [wireFrame_eq, frameBytes]
    rw [e]
    exact slice_middle _ _ _ _ _ (by simp) (by simp; omega)
  unfold decodeFrom
  rw [hl, hlen, byteAt_wireFrame_flags, hcrc]
  rw [if_neg (by omega), if_neg (by omega), if_neg (by omega), if_neg (by simp)]
  cases hv : versionOk fl
  · simp; omega
  · simp only [Bool.true_eq_false, if_false, if_true, parseMessage, byteAt_wireFrame_flags, byteAt_wireFrame_cmd, hbody]
    congr 1; omega

end Sys2Proof.Machine
end

