-- ==== Sys2Proof/Laws/Framer.lean ====
section
/-! SUPPORT. The framer: what its encoder answers, in terms of the wire frame of 30_encoding.md rule R100. -/

namespace Sys2Proof.Machine

theorem withCrc_frameHead (mode : ErrLenMode) (magic : Word) (cmd flags : Byte) (body : Bytes) (err : Option Byte)
    (version : Byte) :
    withCrc (frameHead mode magic cmd flags body err version) =
      wireFrame magic (lengthField mode body err) (flags ||| version) cmd (err.toList ++ body) := by
  simp [withCrc, frameHead, wireFrame]

/-- The length field is less than the frame's size, so it fits whenever the size does (41_framer.md rule R165). -/
theorem lengthField_lt_size (mode : ErrLenMode) (body : Bytes) (err : Option Byte) :
    lengthField mode body err + 7 < frameSize body err := by
  cases err <;> cases mode <;> simp [lengthField, frameSize]

/-- With version 1 and room, the encoder answers the wire frame. -/
theorem encodeFrame_fits (mode : ErrLenMode) (magic : Word) (cmd flags : Byte) (body : Bytes) (err : Option Byte)
    (cap : Nat) (hfit : frameSize body err ≤ cap) (hcap : cap < 2 ^ 32) :
    encodeFrame mode magic cmd flags body err Config.protoVersionByte cap =
      .ok (wireFrame magic (lengthField mode body err) (flags ||| Config.protoVersionByte) cmd (err.toList ++ body)) := by
  have := lengthField_lt_size mode body err
  unfold encodeFrame
  rw [if_neg (by simp), if_neg (by omega), if_neg (by omega), withCrc_frameHead]

theorem encodeFrame_small (mode : ErrLenMode) (magic : Word) (cmd flags : Byte) (body : Bytes) (err : Option Byte)
    (cap : Nat) (hfit : cap < frameSize body err) :
    encodeFrame mode magic cmd flags body err Config.protoVersionByte cap = .error .capacity := by
  unfold encodeFrame
  rw [if_neg (by simp), if_pos hfit]

/-- Every frame the encoder answers has 12 bytes at least. -/
theorem encodeFrame_length {mode : ErrLenMode} {magic : Word} {cmd flags : Byte} {body : Bytes} {err : Option Byte}
    {version : Byte} {cap : Nat} {f : Bytes} (h : encodeFrame mode magic cmd flags body err version cap = .ok f) :
    f.length = frameSize body err := by
  unfold encodeFrame at h
  split_ifs at h
  cases h
  rw [withCrc_frameHead]
  cases err <;> simp [frameSize]

/-- The reasons the encoder refuses with, in the order it checks (41_framer.md rule R166). -/
theorem encodeFrame_error {mode : ErrLenMode} {magic : Word} {cmd flags : Byte} {body : Bytes} {err : Option Byte}
    {version : Byte} {cap : Nat} {r : Reason} (h : encodeFrame mode magic cmd flags body err version cap = .error r) :
    (r = .version ∧ version ≠ Config.protoVersionByte) ∨ (r = .capacity ∧ cap < frameSize body err) ∨
      (r = .length ∧ lengthField mode body err > 2 ^ 32 - 1) := by
  unfold encodeFrame at h
  split_ifs at h with h1 h2 h3
  · cases h; exact .inl ⟨rfl, h1⟩
  · cases h; exact .inr (.inl ⟨rfl, h2⟩)
  · cases h; exact .inr (.inr ⟨rfl, h3⟩)

end Sys2Proof.Machine
end

