-- ==== Sys2Proof/Laws/State.lean ====
section
/-! SUPPORT. What each named update of Machine/Ops.lean does to each field of the state: one equation per field per update,
so that no later proof unfolds a record update. -/

namespace Sys2Proof.Machine

/-! ### setMagic -/

@[simp] theorem State.setMagic_cfg (s : State) (m : Word) : (s.setMagic m).cfg = s.cfg := rfl
@[simp] theorem State.setMagic_cfgMagic (s : State) (m : Word) : (s.setMagic m).cfgMagic = m := rfl
@[simp] theorem State.setMagic_acc (s : State) (m : Word) : (s.setMagic m).acc = s.acc := rfl
@[simp] theorem State.setMagic_msgValid (s : State) (m : Word) : (s.setMagic m).msgValid = s.msgValid := rfl
@[simp] theorem State.setMagic_msg (s : State) (m : Word) : (s.setMagic m).msg = s.msg := rfl
@[simp] theorem State.setMagic_status (s : State) (m : Word) : (s.setMagic m).status = s.status := rfl
@[simp] theorem State.setMagic_lastSkip (s : State) (m : Word) : (s.setMagic m).lastSkip = s.lastSkip := rfl
@[simp] theorem State.setMagic_exitReq (s : State) (m : Word) : (s.setMagic m).exitReq = s.exitReq := rfl
@[simp] theorem State.setMagic_inputs (s : State) (m : Word) : (s.setMagic m).inputs = s.inputs := rfl
@[simp] theorem State.setMagic_env (s : State) (m : Word) : (s.setMagic m).env = s.env := rfl
@[simp] theorem State.setMagic_response (s : State) (m : Word) : (s.setMagic m).response = s.response := rfl
@[simp] theorem State.setMagic_calls (s : State) (m : Word) : (s.setMagic m).calls = s.calls := rfl

/-! ### setAcc -/

@[simp] theorem State.setAcc_cfg (s : State) (b : Bytes) : (s.setAcc b).cfg = s.cfg := rfl
@[simp] theorem State.setAcc_cfgMagic (s : State) (b : Bytes) : (s.setAcc b).cfgMagic = s.cfgMagic := rfl
@[simp] theorem State.setAcc_acc (s : State) (b : Bytes) : (s.setAcc b).acc = b := rfl
@[simp] theorem State.setAcc_msgValid (s : State) (b : Bytes) : (s.setAcc b).msgValid = s.msgValid := rfl
@[simp] theorem State.setAcc_msg (s : State) (b : Bytes) : (s.setAcc b).msg = s.msg := rfl
@[simp] theorem State.setAcc_status (s : State) (b : Bytes) : (s.setAcc b).status = s.status := rfl
@[simp] theorem State.setAcc_lastSkip (s : State) (b : Bytes) : (s.setAcc b).lastSkip = s.lastSkip := rfl
@[simp] theorem State.setAcc_exitReq (s : State) (b : Bytes) : (s.setAcc b).exitReq = s.exitReq := rfl
@[simp] theorem State.setAcc_inputs (s : State) (b : Bytes) : (s.setAcc b).inputs = s.inputs := rfl
@[simp] theorem State.setAcc_env (s : State) (b : Bytes) : (s.setAcc b).env = s.env := rfl
@[simp] theorem State.setAcc_response (s : State) (b : Bytes) : (s.setAcc b).response = s.response := rfl
@[simp] theorem State.setAcc_calls (s : State) (b : Bytes) : (s.setAcc b).calls = s.calls := rfl

/-! ### discard -/

@[simp] theorem State.discard_cfg (s : State) (k : Nat) : (s.discard k).cfg = s.cfg := rfl
@[simp] theorem State.discard_cfgMagic (s : State) (k : Nat) : (s.discard k).cfgMagic = s.cfgMagic := rfl
@[simp] theorem State.discard_acc (s : State) (k : Nat) : (s.discard k).acc = slice s.acc k s.acc.length := rfl
@[simp] theorem State.discard_msgValid (s : State) (k : Nat) : (s.discard k).msgValid = s.msgValid := rfl
@[simp] theorem State.discard_msg (s : State) (k : Nat) : (s.discard k).msg = s.msg := rfl
@[simp] theorem State.discard_status (s : State) (k : Nat) : (s.discard k).status = s.status := rfl
@[simp] theorem State.discard_lastSkip (s : State) (k : Nat) : (s.discard k).lastSkip = s.lastSkip := rfl
@[simp] theorem State.discard_exitReq (s : State) (k : Nat) : (s.discard k).exitReq = s.exitReq := rfl
@[simp] theorem State.discard_inputs (s : State) (k : Nat) : (s.discard k).inputs = s.inputs := rfl
@[simp] theorem State.discard_env (s : State) (k : Nat) : (s.discard k).env = s.env := rfl
@[simp] theorem State.discard_response (s : State) (k : Nat) : (s.discard k).response = s.response := rfl
@[simp] theorem State.discard_calls (s : State) (k : Nat) : (s.discard k).calls = s.calls := rfl

/-! ### loadMsg -/

@[simp] theorem State.loadMsg_cfg (s : State) (m : Message) : (s.loadMsg m).cfg = s.cfg := rfl
@[simp] theorem State.loadMsg_cfgMagic (s : State) (m : Message) : (s.loadMsg m).cfgMagic = s.cfgMagic := rfl
@[simp] theorem State.loadMsg_acc (s : State) (m : Message) : (s.loadMsg m).acc = s.acc := rfl
@[simp] theorem State.loadMsg_msgValid (s : State) (m : Message) : (s.loadMsg m).msgValid = true := rfl
@[simp] theorem State.loadMsg_msg (s : State) (m : Message) : (s.loadMsg m).msg = m := rfl
@[simp] theorem State.loadMsg_status (s : State) (m : Message) : (s.loadMsg m).status = s.status := rfl
@[simp] theorem State.loadMsg_lastSkip (s : State) (m : Message) : (s.loadMsg m).lastSkip = s.lastSkip := rfl
@[simp] theorem State.loadMsg_exitReq (s : State) (m : Message) : (s.loadMsg m).exitReq = s.exitReq := rfl
@[simp] theorem State.loadMsg_inputs (s : State) (m : Message) : (s.loadMsg m).inputs = s.inputs := rfl
@[simp] theorem State.loadMsg_env (s : State) (m : Message) : (s.loadMsg m).env = s.env := rfl
@[simp] theorem State.loadMsg_response (s : State) (m : Message) : (s.loadMsg m).response = s.response := rfl
@[simp] theorem State.loadMsg_calls (s : State) (m : Message) : (s.loadMsg m).calls = s.calls := rfl

/-! ### clearMsg -/

@[simp] theorem State.clearMsg_cfg (s : State) : (s.clearMsg).cfg = s.cfg := rfl
@[simp] theorem State.clearMsg_cfgMagic (s : State) : (s.clearMsg).cfgMagic = s.cfgMagic := rfl
@[simp] theorem State.clearMsg_acc (s : State) : (s.clearMsg).acc = s.acc := rfl
@[simp] theorem State.clearMsg_msgValid (s : State) : (s.clearMsg).msgValid = false := rfl
@[simp] theorem State.clearMsg_msg (s : State) : (s.clearMsg).msg = Message.cleared := rfl
@[simp] theorem State.clearMsg_status (s : State) : (s.clearMsg).status = s.status := rfl
@[simp] theorem State.clearMsg_lastSkip (s : State) : (s.clearMsg).lastSkip = s.lastSkip := rfl
@[simp] theorem State.clearMsg_exitReq (s : State) : (s.clearMsg).exitReq = s.exitReq := rfl
@[simp] theorem State.clearMsg_inputs (s : State) : (s.clearMsg).inputs = s.inputs := rfl
@[simp] theorem State.clearMsg_env (s : State) : (s.clearMsg).env = s.env := rfl
@[simp] theorem State.clearMsg_response (s : State) : (s.clearMsg).response = s.response := rfl
@[simp] theorem State.clearMsg_calls (s : State) : (s.clearMsg).calls = s.calls := rfl

/-! ### markReplied -/

@[simp] theorem State.markReplied_cfg (s : State) : (s.markReplied).cfg = s.cfg := rfl
@[simp] theorem State.markReplied_cfgMagic (s : State) : (s.markReplied).cfgMagic = s.cfgMagic := rfl
@[simp] theorem State.markReplied_acc (s : State) : (s.markReplied).acc = s.acc := rfl
@[simp] theorem State.markReplied_msgValid (s : State) : (s.markReplied).msgValid = s.msgValid := rfl
@[simp] theorem State.markReplied_msg (s : State) : (s.markReplied).msg = { s.msg with hasBeenReplied := true } := rfl
@[simp] theorem State.markReplied_status (s : State) : (s.markReplied).status = s.status := rfl
@[simp] theorem State.markReplied_lastSkip (s : State) : (s.markReplied).lastSkip = s.lastSkip := rfl
@[simp] theorem State.markReplied_exitReq (s : State) : (s.markReplied).exitReq = s.exitReq := rfl
@[simp] theorem State.markReplied_inputs (s : State) : (s.markReplied).inputs = s.inputs := rfl
@[simp] theorem State.markReplied_env (s : State) : (s.markReplied).env = s.env := rfl
@[simp] theorem State.markReplied_response (s : State) : (s.markReplied).response = s.response := rfl
@[simp] theorem State.markReplied_calls (s : State) : (s.markReplied).calls = s.calls := rfl

/-! ### setStatus -/

@[simp] theorem State.setStatus_cfg (s : State) (st : Status) (r : Reason) : (s.setStatus st r).cfg = s.cfg := rfl
@[simp] theorem State.setStatus_cfgMagic (s : State) (st : Status) (r : Reason) : (s.setStatus st r).cfgMagic = s.cfgMagic := rfl
@[simp] theorem State.setStatus_acc (s : State) (st : Status) (r : Reason) : (s.setStatus st r).acc = s.acc := rfl
@[simp] theorem State.setStatus_msgValid (s : State) (st : Status) (r : Reason) : (s.setStatus st r).msgValid = s.msgValid := rfl
@[simp] theorem State.setStatus_msg (s : State) (st : Status) (r : Reason) : (s.setStatus st r).msg = s.msg := rfl
@[simp] theorem State.setStatus_status (s : State) (st : Status) (r : Reason) : (s.setStatus st r).status = ⟨st, r⟩ := rfl
@[simp] theorem State.setStatus_lastSkip (s : State) (st : Status) (r : Reason) : (s.setStatus st r).lastSkip = s.lastSkip := rfl
@[simp] theorem State.setStatus_exitReq (s : State) (st : Status) (r : Reason) : (s.setStatus st r).exitReq = s.exitReq := rfl
@[simp] theorem State.setStatus_inputs (s : State) (st : Status) (r : Reason) : (s.setStatus st r).inputs = s.inputs := rfl
@[simp] theorem State.setStatus_env (s : State) (st : Status) (r : Reason) : (s.setStatus st r).env = s.env := rfl
@[simp] theorem State.setStatus_response (s : State) (st : Status) (r : Reason) : (s.setStatus st r).response = s.response := rfl
@[simp] theorem State.setStatus_calls (s : State) (st : Status) (r : Reason) : (s.setStatus st r).calls = s.calls := rfl

/-! ### setLastSkip -/

@[simp] theorem State.setLastSkip_cfg (s : State) (n : Nat) : (s.setLastSkip n).cfg = s.cfg := rfl
@[simp] theorem State.setLastSkip_cfgMagic (s : State) (n : Nat) : (s.setLastSkip n).cfgMagic = s.cfgMagic := rfl
@[simp] theorem State.setLastSkip_acc (s : State) (n : Nat) : (s.setLastSkip n).acc = s.acc := rfl
@[simp] theorem State.setLastSkip_msgValid (s : State) (n : Nat) : (s.setLastSkip n).msgValid = s.msgValid := rfl
@[simp] theorem State.setLastSkip_msg (s : State) (n : Nat) : (s.setLastSkip n).msg = s.msg := rfl
@[simp] theorem State.setLastSkip_status (s : State) (n : Nat) : (s.setLastSkip n).status = s.status := rfl
@[simp] theorem State.setLastSkip_lastSkip (s : State) (n : Nat) : (s.setLastSkip n).lastSkip = BitVec.ofNat 32 n := rfl
@[simp] theorem State.setLastSkip_exitReq (s : State) (n : Nat) : (s.setLastSkip n).exitReq = s.exitReq := rfl
@[simp] theorem State.setLastSkip_inputs (s : State) (n : Nat) : (s.setLastSkip n).inputs = s.inputs := rfl
@[simp] theorem State.setLastSkip_env (s : State) (n : Nat) : (s.setLastSkip n).env = s.env := rfl
@[simp] theorem State.setLastSkip_response (s : State) (n : Nat) : (s.setLastSkip n).response = s.response := rfl
@[simp] theorem State.setLastSkip_calls (s : State) (n : Nat) : (s.setLastSkip n).calls = s.calls := rfl

/-! ### setExitReq -/

@[simp] theorem State.setExitReq_cfg (s : State) (b : Bool) : (s.setExitReq b).cfg = s.cfg := rfl
@[simp] theorem State.setExitReq_cfgMagic (s : State) (b : Bool) : (s.setExitReq b).cfgMagic = s.cfgMagic := rfl
@[simp] theorem State.setExitReq_acc (s : State) (b : Bool) : (s.setExitReq b).acc = s.acc := rfl
@[simp] theorem State.setExitReq_msgValid (s : State) (b : Bool) : (s.setExitReq b).msgValid = s.msgValid := rfl
@[simp] theorem State.setExitReq_msg (s : State) (b : Bool) : (s.setExitReq b).msg = s.msg := rfl
@[simp] theorem State.setExitReq_status (s : State) (b : Bool) : (s.setExitReq b).status = s.status := rfl
@[simp] theorem State.setExitReq_lastSkip (s : State) (b : Bool) : (s.setExitReq b).lastSkip = s.lastSkip := rfl
@[simp] theorem State.setExitReq_exitReq (s : State) (b : Bool) : (s.setExitReq b).exitReq = b := rfl
@[simp] theorem State.setExitReq_inputs (s : State) (b : Bool) : (s.setExitReq b).inputs = s.inputs := rfl
@[simp] theorem State.setExitReq_env (s : State) (b : Bool) : (s.setExitReq b).env = s.env := rfl
@[simp] theorem State.setExitReq_response (s : State) (b : Bool) : (s.setExitReq b).response = s.response := rfl
@[simp] theorem State.setExitReq_calls (s : State) (b : Bool) : (s.setExitReq b).calls = s.calls := rfl

/-! ### setResponse -/

@[simp] theorem State.setResponse_cfg (s : State) (st : Status) (r : Reason) (res : Result) : (s.setResponse st r res).cfg = s.cfg := rfl
@[simp] theorem State.setResponse_cfgMagic (s : State) (st : Status) (r : Reason) (res : Result) : (s.setResponse st r res).cfgMagic = s.cfgMagic := rfl
@[simp] theorem State.setResponse_acc (s : State) (st : Status) (r : Reason) (res : Result) : (s.setResponse st r res).acc = s.acc := rfl
@[simp] theorem State.setResponse_msgValid (s : State) (st : Status) (r : Reason) (res : Result) : (s.setResponse st r res).msgValid = s.msgValid := rfl
@[simp] theorem State.setResponse_msg (s : State) (st : Status) (r : Reason) (res : Result) : (s.setResponse st r res).msg = s.msg := rfl
@[simp] theorem State.setResponse_status (s : State) (st : Status) (r : Reason) (res : Result) : (s.setResponse st r res).status = s.status := rfl
@[simp] theorem State.setResponse_lastSkip (s : State) (st : Status) (r : Reason) (res : Result) : (s.setResponse st r res).lastSkip = s.lastSkip := rfl
@[simp] theorem State.setResponse_exitReq (s : State) (st : Status) (r : Reason) (res : Result) : (s.setResponse st r res).exitReq = s.exitReq := rfl
@[simp] theorem State.setResponse_inputs (s : State) (st : Status) (r : Reason) (res : Result) : (s.setResponse st r res).inputs = s.inputs := rfl
@[simp] theorem State.setResponse_env (s : State) (st : Status) (r : Reason) (res : Result) : (s.setResponse st r res).env = s.env := rfl
@[simp] theorem State.setResponse_response (s : State) (st : Status) (r : Reason) (res : Result) : (s.setResponse st r res).response = some ⟨st, r, res⟩ := rfl
@[simp] theorem State.setResponse_calls (s : State) (st : Status) (r : Reason) (res : Result) : (s.setResponse st r res).calls = s.calls := rfl

/-! ### logCall -/

@[simp] theorem State.logCall_cfg (s : State) (c : AgentCall) : (s.logCall c).cfg = s.cfg := rfl
@[simp] theorem State.logCall_cfgMagic (s : State) (c : AgentCall) : (s.logCall c).cfgMagic = s.cfgMagic := rfl
@[simp] theorem State.logCall_acc (s : State) (c : AgentCall) : (s.logCall c).acc = s.acc := rfl
@[simp] theorem State.logCall_msgValid (s : State) (c : AgentCall) : (s.logCall c).msgValid = s.msgValid := rfl
@[simp] theorem State.logCall_msg (s : State) (c : AgentCall) : (s.logCall c).msg = s.msg := rfl
@[simp] theorem State.logCall_status (s : State) (c : AgentCall) : (s.logCall c).status = s.status := rfl
@[simp] theorem State.logCall_lastSkip (s : State) (c : AgentCall) : (s.logCall c).lastSkip = s.lastSkip := rfl
@[simp] theorem State.logCall_exitReq (s : State) (c : AgentCall) : (s.logCall c).exitReq = s.exitReq := rfl
@[simp] theorem State.logCall_inputs (s : State) (c : AgentCall) : (s.logCall c).inputs = s.inputs := rfl
@[simp] theorem State.logCall_env (s : State) (c : AgentCall) : (s.logCall c).env = s.env := rfl
@[simp] theorem State.logCall_response (s : State) (c : AgentCall) : (s.logCall c).response = s.response := rfl
@[simp] theorem State.logCall_calls (s : State) (c : AgentCall) : (s.logCall c).calls = s.calls ++ [c] := rfl

/-! ### accept -/

@[simp] theorem State.accept_cfg (s : State) (inp : Input) (rest : List Input) : (s.accept inp rest).cfg = s.cfg := rfl
@[simp] theorem State.accept_cfgMagic (s : State) (inp : Input) (rest : List Input) : (s.accept inp rest).cfgMagic = s.cfgMagic := rfl
@[simp] theorem State.accept_acc (s : State) (inp : Input) (rest : List Input) : (s.accept inp rest).acc = s.acc := rfl
@[simp] theorem State.accept_msgValid (s : State) (inp : Input) (rest : List Input) : (s.accept inp rest).msgValid = s.msgValid := rfl
@[simp] theorem State.accept_msg (s : State) (inp : Input) (rest : List Input) : (s.accept inp rest).msg = s.msg := rfl
@[simp] theorem State.accept_status (s : State) (inp : Input) (rest : List Input) : (s.accept inp rest).status = s.status := rfl
@[simp] theorem State.accept_lastSkip (s : State) (inp : Input) (rest : List Input) : (s.accept inp rest).lastSkip = s.lastSkip := rfl
@[simp] theorem State.accept_exitReq (s : State) (inp : Input) (rest : List Input) : (s.accept inp rest).exitReq = s.exitReq := rfl
@[simp] theorem State.accept_inputs (s : State) (inp : Input) (rest : List Input) : (s.accept inp rest).inputs = rest := rfl
@[simp] theorem State.accept_env (s : State) (inp : Input) (rest : List Input) : (s.accept inp rest).env = inp.env := rfl
@[simp] theorem State.accept_response (s : State) (inp : Input) (rest : List Input) : (s.accept inp rest).response = s.response := rfl
@[simp] theorem State.accept_calls (s : State) (inp : Input) (rest : List Input) : (s.accept inp rest).calls = s.calls := rfl

/-! ### How an operation ends: `respond`, `raise`, `respondOnly` -/

theorem respond_eq (s : State) (st : Status) (r : Reason) (res : Result) :
    respond s st r res = .next { s with status := ⟨st, r⟩, response := some ⟨st, r, res⟩ } := rfl

theorem raise_eq (s : State) (st : Status) (r : Reason) :
    raise s st r = .next { s with status := ⟨st, r⟩, response := some ⟨st, r, .none⟩ } := rfl

theorem respondOnly_eq (s : State) (st : Status) (r : Reason) (res : Result) :
    respondOnly s st r res = .next { s with response := some ⟨st, r, res⟩ } := rfl

end Sys2Proof.Machine
end

