-- ==== Sys2Proof/Laws/Accumulator.lean ====
section
/-! SUPPORT. The host operations that do not dispatch: the shape of every next state of each, said once. -/

namespace Sys2Proof.Machine

/-- STATUS and the response are all that an operation writes: the shape of the ENCODE family and of a reserved byte. -/
def StatusOnly (s t : State) : Prop :=
  ∃ st r res, t = { s with status := ⟨st, r⟩, response := some ⟨st, r, res⟩ }

theorem respond_next {s t : State} {st : Status} {r : Reason} {res : Result} (h : respond s st r res = .next t) :
    StatusOnly s t := ⟨st, r, res, by cases h; rfl⟩

/-- The ENCODE family always answers a next state, and writes STATUS and the response alone (41_framer.md rule R168). -/
theorem finishEncode_next (s : State) (e : Except Reason Bytes) : ∃ t, finishEncode s e = .next t ∧ StatusOnly s t := by
  cases e with
  | ok f => exact ⟨_, rfl, respond_next rfl⟩
  | error r => exact ⟨_, rfl, respond_next rfl⟩

/-- The encoder refuses with no reason but the three of 41_framer.md rule R166, and a convenience encoding with CAPACITY
alone (60_exceptions.md rule R323). -/
theorem encodeFrame_version_one_error {mode : ErrLenMode} {magic : Word} {cmd flags : Byte} {body : Bytes}
    {err : Option Byte} {cap : Word} {r : Reason}
    (h : encodeFrame mode magic cmd flags body err Config.protoVersionByte cap.toNat = .error r) : r = .capacity := by
  rcases encodeFrame_error h with ⟨_, hv⟩ | ⟨hr, _⟩ | ⟨_, hl⟩
  · exact absurd rfl hv
  · exact hr
  · by_cases hc : cap.toNat < frameSize body err
    · rw [encodeFrame_small _ _ _ _ _ _ _ hc] at h; cases h; rfl
    · have := lengthField_lt_size mode body err
      have := cap.isLt
      omega

/-- PUSH appends the data and clears `last_skip`, or is refused and writes STATUS alone. -/
theorem execPush_next (data : Bytes) (s : State) : ∃ t, execPush data s = .next t ∧
    ((s.acc.length + data.length ≤ s.cfg.accCapacity ∧
        StatusOnly { s with acc := s.acc ++ data, lastSkip := 0#32 } t ∧ t.status = ⟨.ok, .none⟩) ∨
      (s.acc.length + data.length > s.cfg.accCapacity ∧ StatusOnly s t ∧ t.status = ⟨.bufferFull, .none⟩)) := by
  unfold execPush
  split
  · next h => exact ⟨_, rfl, .inr ⟨h, respond_next rfl, rfl⟩⟩
  · next h => exact ⟨_, rfl, .inl ⟨by omega, respond_next rfl, rfl⟩⟩

/-- TRY_DECODE always answers a next state: a message taken out, a prefix skipped, or nothing consumed. -/
theorem execTryDecode_next (s : State) : ∃ t, execTryDecode s = .next t ∧
    ((∃ m c, decodeAt s.acc s.cfgMagic = .found m c ∧ t.status = ⟨.ok, .none⟩ ∧
        StatusOnly { s with acc := s.acc.drop c, msgValid := true, msg := m, lastSkip := BitVec.ofNat 32 c } t) ∨
      (∃ k why, decodeAt s.acc s.cfgMagic = .notFound k why ∧ t.status = ⟨.notFound, why⟩ ∧
        StatusOnly { s with acc := s.acc.drop k, msgValid := false, msg := Message.cleared,
                            lastSkip := BitVec.ofNat 32 k } t) ∨
      (decodeAt s.acc s.cfgMagic = .incomplete ∧ t.status = ⟨.incomplete, .none⟩ ∧
        StatusOnly { s with msgValid := false, msg := Message.cleared, lastSkip := 0#32 } t)) := by
  unfold execTryDecode
  cases hd : decodeAt s.acc s.cfgMagic with
  | found m c =>
    exact ⟨_, rfl, .inl ⟨m, c, rfl, rfl, .ok, .none, .message m.flags m.cmd m.body, by
      simp [State.discard, State.setAcc, State.loadMsg, State.setLastSkip, State.setStatus, State.setResponse,
        slice_to_end]⟩⟩
  | notFound k why =>
    refine ⟨_, rfl, .inr (.inl ⟨k, why, rfl, rfl, .notFound, why, .none, ?_⟩)⟩
    by_cases hk : k > 0
    · simp [hk, State.discard, State.setAcc, State.clearMsg, State.setLastSkip, State.setStatus, State.setResponse,
        slice_to_end]
    · have : k = 0 := by omega
      subst this
      simp [State.clearMsg, State.setLastSkip, State.setStatus, State.setResponse]
  | incomplete =>
    exact ⟨_, rfl, .inr (.inr ⟨rfl, rfl, .incomplete, .none, .none, rfl⟩)⟩

/-- DECODE_AT always answers a next state, and writes `last_skip`, STATUS and the response alone. -/
theorem execDecodeAt_next (buffer : Bytes) (magic : Word) (s : State) :
    ∃ t, execDecodeAt buffer magic s = .next t ∧ StatusOnly { s with lastSkip := 0#32 } t := by
  unfold execDecodeAt
  split
  · exact ⟨_, rfl, respond_next rfl⟩
  · exact ⟨_, rfl, respond_next rfl⟩
  · exact ⟨_, rfl, respond_next rfl⟩

/-- RDREG always answers a next state, and gives the response alone (43_accumulator.md rule R240). -/
theorem execRdreg_next (index : Byte) (s : State) :
    ∃ t r, execRdreg index s = .next t ∧ t = { s with response := some r } := by
  unfold execRdreg
  split
  · exact ⟨_, _, rfl, rfl⟩
  · exact ⟨_, _, rfl, rfl⟩

end Sys2Proof.Machine
end

