-- ==== Sys2Proof/Laws/Crc.lean ====
section
/-! SUPPORT. The CRC is linear, and its register step has no kernel: the two facts behind the detection of errors
(40_crc.md rule R146). -/

namespace Sys2Proof.Machine

theorem crcBit_xor (a b : BitVec 16) : crcBit (a ^^^ b) = crcBit a ^^^ crcBit b := by
  unfold crcBit
  rw [BitVec.getLsbD_xor]
  cases a.getLsbD 0 <;> cases b.getLsbD 0 <;> simp [BitVec.ushiftRight_xor_distrib] <;> ext i <;>
    simp <;> cases (0xA001#16)[i] <;> simp

/-- Only the zero register steps to zero, because the polynomial's top bit is set. -/
theorem crcBit_eq_zero {c : BitVec 16} (h : crcBit c = 0#16) : c = 0#16 := by
  unfold crcBit at h
  split at h
  · have := congrArg (fun v : BitVec 16 => v.getLsbD 15) h
    simp at this
  · next hb =>
    have h2 := congrArg BitVec.toNat h
    simp [Nat.shiftRight_eq_div_pow] at h2
    have h3 : c.toNat % 2 = 0 := by
      have : c.toNat.testBit 0 = false := by simpa [BitVec.getLsbD] using hb
      simpa [Nat.testBit_zero] using this
    apply BitVec.eq_of_toNat_eq
    simp; omega

theorem crcByte_xor (a b : BitVec 16) (x y : Byte) : crcByte (a ^^^ b) (x ^^^ y) = crcByte a x ^^^ crcByte b y := by
  have : (a ^^^ b) ^^^ (x ^^^ y).setWidth 16 = (a ^^^ x.setWidth 16) ^^^ (b ^^^ y.setWidth 16) := by
    rw [BitVec.setWidth_xor]; ac_rfl
  simp only [crcByte, this, crcBit_xor]

theorem crcByte_zero_eq_zero {c : BitVec 16} (h : crcByte c 0#8 = 0#16) : c = 0#16 := by
  unfold crcByte at h
  simpa using crcBit_eq_zero (crcBit_eq_zero (crcBit_eq_zero (crcBit_eq_zero (crcBit_eq_zero (crcBit_eq_zero
    (crcBit_eq_zero (crcBit_eq_zero h)))))))

theorem crcByte_of_zero_eq_zero {b : Byte} (h : crcByte 0#16 b = 0#16) : b = 0#8 := by
  unfold crcByte at h
  have h2 := crcBit_eq_zero (crcBit_eq_zero (crcBit_eq_zero (crcBit_eq_zero (crcBit_eq_zero (crcBit_eq_zero
    (crcBit_eq_zero (crcBit_eq_zero h)))))))
  simp only [BitVec.zero_xor] at h2
  have h3 := congrArg BitVec.toNat h2
  have := b.isLt
  apply BitVec.eq_of_toNat_eq
  simp at h3 ⊢
  omega

/-- A difference in the register runs on by itself, as over zero bytes. -/
theorem crcFold_xor (c d : BitVec 16) (b : Bytes) :
    b.foldl crcByte (c ^^^ d) = b.foldl crcByte c ^^^ (List.replicate b.length 0#8).foldl crcByte d := by
  induction b generalizing c d with
  | nil => simp
  | cons x b ih =>
    simp only [List.foldl_cons, List.length_cons, List.replicate_succ]
    rw [← ih, ← crcByte_xor]
    simp

/-- Zero bytes never bring a register that differs from zero to zero. -/
theorem crcFold_zeros_ne (n : Nat) {d : BitVec 16} (h : d ≠ 0#16) :
    (List.replicate n 0#8).foldl crcByte d ≠ 0#16 := by
  induction n generalizing d with
  | zero => simpa
  | succ n ih =>
    simp only [List.replicate_succ, List.foldl_cons]
    exact ih (fun h2 => h (crcByte_zero_eq_zero h2))

end Sys2Proof.Machine
end

