-- ==== Sys2Proof/Laws/Decode.lean ====
section
/-! SUPPORT. The decoders: every byte of each format has its row, well formed and encoded back as that byte. -/

namespace Sys2Proof

/-- A host command byte of 10 or more is a reserved one. -/
theorem decodeHost_reserved (r : Request) (h : 10 ≤ r.op.toNat) : decodeHost r = decodeReservedOp r.op := by
  unfold decodeHost
  split <;> first | omega | rfl

/-- The row of a reserved byte is one whose range holds the byte. -/
theorem decodeReservedOp_spec : ∀ b : Byte, 10 ≤ b.toNat →
    (decodeReservedOp b).wf = true ∧ (encode (decodeReservedOp b)).byte = b := by decide +kernel

/-- Every host request decodes to a well-formed instruction. -/
theorem decodeHost_wf (r : Request) : (decodeHost r).wf = true := by
  by_cases h : 10 ≤ r.op.toNat
  · rw [decodeHost_reserved r h]
    exact (decodeReservedOp_spec _ h).1
  · have h9 : r.op.toNat < 10 := by omega
    unfold decodeHost
    generalize r.op.toNat = n at h9
    interval_cases n <;> rfl

/-- Every cmd byte selects an arm whose encoding is that byte. -/
theorem decodeCmd_spec : ∀ b : Byte, (decodeCmd b).wf = true ∧ encode (decodeCmd b) = .cmd b := by decide +kernel

/-- Every flags byte of version 1 is a frame kind whose encoding is that byte. -/
theorem decodeFlags_spec (b : Byte) (h : versionOk b = true) :
    decodeFlags b = .ok (if b.getLsbD 7 then .frameResponse b else .frameRequest b) := by simp [decodeFlags, h]

end Sys2Proof
end

