-- ==== Sys2Proof/Laws/Dispatcher.lean ====
section
/-! SUPPORT. The dispatcher: what each query to an external agent answers, and, said once for every arm, all that
dispatching a message can do. -/

namespace Sys2Proof.Machine

/-! ### Queries -/

theorem queryApps_ok (s : State) (k : List AppRecord → State → Out) (h : s.env.appsOk) :
    queryApps s k = k s.env.apps (s.logCall .listApps) := by
  have : ¬ s.env.apps.length > 255 := by have := h.1; omega
  simp only [queryApps, if_neg this, h.2, if_true]

theorem queryCurrentApp_ok (s : State) (k : Bytes → State → Out) (h : s.env.currentOk) :
    queryCurrentApp s k = k s.env.currentApp (s.logCall .currentAppId) := by
  unfold Env.currentOk at h
  simp [queryCurrentApp, h]

/-! ### Sending a reply -/

/-- A frame that is sent, with a sink that keeps its duty: the call, `has_been_replied`, STATUS by the sink's answer, and
the response. -/
theorem send_frame (s : State) (f : Bytes) (isErr : Bool) (h : s.env.sinkOk f) :
    send s (.ok f) (sentReason isErr) = .next (s.afterReply [] f isErr) := by
  unfold Env.sinkOk at h
  unfold send sinkWrite State.afterReply statusAfterWrite
  cases hs : s.env.sink with
  | all => simp [finishDispatch, respond, State.markReplied, State.logCall, State.setStatus, State.setResponse]
  | error => simp [finishDispatch, respond, State.markReplied, State.logCall, State.setStatus, State.setResponse]
  | count n =>
    rw [hs] at h
    have hn : ¬ n > f.length := by simpa using h
    simp only [if_neg hn]
    split <;> simp [finishDispatch, respond, State.markReplied, State.logCall, State.setStatus, State.setResponse]

/-- An ok reply that fits. -/
theorem replyOk_fits (s : State) (body : Bytes) (hfit : body.length + 12 ≤ s.cfg.replyCap)
    (hcap : s.cfg.replyCap < 2 ^ 32) (h : s.env.sinkOk (okReply s body)) :
    replyOk s body = .next (s.afterReply [] (okReply s body) false) := by
  unfold replyOk State.encodeWith
  rw [encodeFrame_fits _ _ _ _ _ _ _ (by simpa [frameSize] using hfit) hcap]
  exact send_frame s (okReply s body) false h

/-- An ok reply that does not fit is not sent. -/
theorem replyOk_tooBig (s : State) (body : Bytes) (hfit : s.cfg.replyCap < body.length + 12) :
    replyOk s body = finishDispatch s .argsError .replyTooBig := by
  unfold replyOk State.encodeWith
  rw [encodeFrame_small _ _ _ _ _ _ _ (by simpa [frameSize] using hfit)]
  rfl

/-- No site's text is longer than the longest. -/
theorem errMsg_le (c : Config) (site : Site) : (c.errMsg site).length ≤ c.maxMsgLen := by
  cases site <;> simp [Config.errMsg, Config.maxMsgLen]

/-- An error reply always fits (90_conflicts.md C11). -/
theorem replyErr_fits (s : State) (code : Byte) (site : Site) (hw : s.cfg.wf = true)
    (h : s.env.sinkOk (errReply s code site)) :
    replyErr s code site = .next (s.afterReply [] (errReply s code site) true) := by
  simp only [Config.wf, Bool.and_eq_true, decide_eq_true_eq] at hw
  have hsite : (s.cfg.errMsg site).length + 13 ≤ s.cfg.replyCap := by
    have := errMsg_le s.cfg site
    omega
  unfold replyErr State.encodeWith
  rw [encodeFrame_fits _ _ _ _ _ _ _ (by simp [frameSize]; omega) (by omega)]
  have : wireFrame s.cfgMagic (lengthField s.cfg.errLenMode (s.cfg.errMsg site) (some code))
      (flagsErrResponse ||| Config.protoVersionByte) s.msg.cmd ((some code).toList ++ s.cfg.errMsg site) =
      errReply s code site := by
    cases hm : s.cfg.errLenMode <;> simp [errReply, lengthField, errLenExtra, hm] <;> rfl
  rw [this]
  exact send_frame s (errReply s code site) true h

/-! ### All that dispatching can do -/

/-- The statuses DISPATCH can end with (60_exceptions.md rule R323). -/
def dispatchStatus : Status → Reason → Bool
  | .ok, .none => true
  | .ok, .repliedErr => true
  | .notHandled, .response => true
  | .notHandled, .unrecognized => true
  | .notHandled, .passThrough => true
  | .argsError, .replyTooBig => true
  | .ioError, .writeError => true
  | .ioError, .shortWrite => true
  | .noMessage, .none => true
  | _, _ => false

/-- What the external agents' answers show of a fault; `brokenDuty` says more, of the calls the instruction makes. -/
def faultCause (e : Env) : Fault → Prop
  | .tooManyApps => e.apps.length > 255
  | .nulInString => e.apps.all appClean = false ∨ noNul e.currentApp = false
  | .sinkOverrun => ∃ n, e.sink = .count n ∧ n > 12

/-- The one shape of every next state of the dispatcher: some calls with at most one frame among them, `has_been_replied`
perhaps set, `exit_req` set only where it may be (`may`) and when `request_exit` is called and answers ok, STATUS and the
response. Nothing else changes. -/
def DispatchEffect (may : Prop) (s t : State) : Prop :=
  ∃ (made : List AgentCall) (sent ex : Bool) (st : Status) (r : Reason) (res : Result),
    (made.filterMap AgentCall.frame?).length ≤ 1 ∧ (ex = true → may ∧ s.env.exitResult = .ok ∧ .requestExit ∈ made) ∧
    dispatchStatus st r = true ∧
    t = { s with
          calls := s.calls ++ made
          msg := { s.msg with hasBeenReplied := s.msg.hasBeenReplied || sent }
          exitReq := s.exitReq || ex
          status := ⟨st, r⟩
          response := some ⟨st, r, res⟩ }

/-- All that an outcome of the dispatcher can be: such a next state, or a fault for a broken duty; never a refusal. -/
def DispatchOk (may : Prop) (s : State) : Out → Prop
  | .next t => DispatchEffect may s t
  | .fault r => faultCause s.env r
  | .refused _ => False

theorem respond_dispatchOk (may : Prop) (s : State) (st : Status) (r : Reason) (res : Result)
    (h : dispatchStatus st r = true) :
    DispatchOk may s (respond s st r res) :=
  ⟨[], false, false, st, r, res, by simp, by simp, h, by
    simp [State.setStatus, State.setResponse]⟩

/-- A call other than `sink_write` made first is one more call of the whole. -/
theorem DispatchOk_of_logCall {may : Prop} {s : State} {c : AgentCall} {o : Out} (hc : c.frame? = none)
    (h : DispatchOk may (s.logCall c) o) : DispatchOk may s o := by
  cases o with
  | next t =>
    obtain ⟨made, sent, ex, st, r, res, h1, h2, h3, h4⟩ := h
    exact ⟨c :: made, sent, ex, st, r, res, by simpa [hc] using h1,
      fun hx => ⟨(h2 hx).1, (h2 hx).2.1, List.mem_cons_of_mem _ (h2 hx).2.2⟩, h3, by simp [h4, State.logCall]⟩
  | fault r => exact h
  | refused r => exact h

/-- Calling `request_exit` and setting `exit_req` first, on an ok answer. -/
theorem DispatchOk_of_exit {may : Prop} {s : State} {o : Out} (hm : may) (hx : s.env.exitResult = .ok)
    (h : DispatchOk may ((s.logCall .requestExit).setExitReq true) o) : DispatchOk may s o := by
  cases o with
  | next t =>
    obtain ⟨made, sent, ex, st, r, res, h1, h2, h3, h4⟩ := h
    exact ⟨.requestExit :: made, sent, true, st, r, res, by rw [List.filterMap_cons_none rfl]; exact h1,
      fun _ => ⟨hm, hx, List.mem_cons_self ..⟩, h3, by simp [h4, State.setExitReq, State.logCall]⟩
  | fault r => exact h
  | refused r => exact h

theorem send_dispatchOk (may : Prop) (s : State) (e : Except Reason Bytes) (isErr : Bool)
    (h : ∀ f, e = .ok f → 12 ≤ f.length) : DispatchOk may s (send s e (sentReason isErr)) := by
  cases e with
  | error r => exact respond_dispatchOk _ s _ _ _ rfl
  | ok f =>
    have hf := h f rfl
    by_cases hs : s.env.sinkOk f
    · rw [send_frame s f isErr hs]
      refine ⟨[.sinkWrite f], true, false, (statusAfterWrite s.env f isErr).last,
        (statusAfterWrite s.env f isErr).reason, .replied true, by simp [AgentCall.frame?], by simp, ?_, by
          simp [State.afterReply]⟩
      unfold statusAfterWrite
      cases s.env.sink with
      | all => cases isErr <;> rfl
      | error => rfl
      | count n =>
        simp only
        split
        · rfl
        · cases isErr <;> rfl
    · unfold Env.sinkOk at hs
      unfold send sinkWrite
      cases hn : s.env.sink with
      | all => simp [hn] at hs
      | error => simp [hn] at hs
      | count n =>
        rw [hn] at hs
        have hs' : n > f.length := by simpa using hs
        simp only [if_pos hs']
        exact ⟨n, hn, by omega⟩

theorem replyOk_dispatchOk (may : Prop) (s : State) (body : Bytes) : DispatchOk may s (replyOk s body) :=
  send_dispatchOk _ s _ false (fun f hf => by rw [encodeFrame_length hf, frameSize]; omega)

theorem replyErr_dispatchOk (may : Prop) (s : State) (code : Byte) (site : Site) : DispatchOk may s (replyErr s code site) :=
  send_dispatchOk _ s _ true (fun f hf => by rw [encodeFrame_length hf, frameSize]; omega)

theorem queryApps_dispatchOk (may : Prop) (s : State) (k : List AppRecord → State → Out)
    (h : DispatchOk may (s.logCall .listApps) (k s.env.apps (s.logCall .listApps))) : DispatchOk may s (queryApps s k) := by
  unfold queryApps
  split
  · assumption
  · split
    · exact DispatchOk_of_logCall rfl h
    · next hn => exact .inl (by simpa using hn)

theorem queryCurrentApp_dispatchOk (may : Prop) (s : State) (k : Bytes → State → Out)
    (h : DispatchOk may (s.logCall .currentAppId) (k s.env.currentApp (s.logCall .currentAppId))) :
    DispatchOk may s (queryCurrentApp s k) := by
  unfold queryCurrentApp
  split
  · exact DispatchOk_of_logCall rfl h
  · next hn => exact .inr (by simpa using hn)

theorem execAppList_ok (may : Prop) (s : State) : DispatchOk may s (execAppList s) :=
  queryApps_dispatchOk _ s _ (replyOk_dispatchOk _ _ _)

theorem execStartApp_ok (may : Prop) (s : State) : DispatchOk may s (execStartApp s) := by
  unfold execStartApp
  split
  · exact replyErr_dispatchOk _ _ _ _
  · split
    · split
      · exact replyErr_dispatchOk _ _ _ _
      · exact DispatchOk_of_logCall rfl (replyOk_dispatchOk _ _ _)
    · apply queryApps_dispatchOk
      split
      · exact replyErr_dispatchOk _ _ _ _
      · exact DispatchOk_of_logCall rfl (replyOk_dispatchOk _ _ _)

theorem execExitApp_ok {may : Prop} (hm : may) (s : State) : DispatchOk may s (execExitApp s) := by
  unfold execExitApp queryExit
  dsimp only
  split
  · exact DispatchOk_of_logCall (c := .requestExit) rfl (replyErr_dispatchOk _ _ _ _)
  · next h => exact DispatchOk_of_exit hm h (replyOk_dispatchOk _ _ _)

theorem execCurAppInfo_ok (may : Prop) (s : State) : DispatchOk may s (execCurAppInfo s) :=
  queryCurrentApp_dispatchOk _ s _ (queryApps_dispatchOk _ _ _ (replyOk_dispatchOk _ _ _))

theorem execAppInfo_ok (may : Prop) (s : State) : DispatchOk may s (execAppInfo s) := by
  unfold execAppInfo
  split
  · exact replyErr_dispatchOk _ _ _ _
  · apply queryApps_dispatchOk
    split
    · exact replyErr_dispatchOk _ _ _ _
    · exact replyOk_dispatchOk _ _ _

theorem notHandled_ok (may : Prop) (s : State) (r : Reason) (h : dispatchStatus .notHandled r = true) :
    DispatchOk may s (notHandled s r) := respond_dispatchOk _ s _ _ _ h

theorem runArm_ok (i : Instr) (s : State) : DispatchOk (i = .exitApp) s (runArm i s) := by
  cases i
  case appList => exact execAppList_ok _ s
  case startApp => exact execStartApp_ok _ s
  case exitApp => exact execExitApp_ok rfl s
  case curAppInfo => exact execCurAppInfo_ok _ s
  case appInfo => exact execAppInfo_ok _ s
  all_goals exact notHandled_ok _ s _ rfl

/-- Where `exit_req` may be set: the arm EXIT_APP itself, or a request of its cmd. -/
def mayExit (i : Instr) (s : State) : Prop :=
  i = .exitApp ∨ (s.msg.cmd = 0xFB#8 ∧
    ((∃ fl, i = .frameRequest fl) ∨ (i = .dispatch ∧ s.msgValid = true ∧ s.msg.flags.getLsbD 7 = false)))

theorem decodeCmd_exitApp : ∀ c : Byte, decodeCmd c = .exitApp → c = 0xFB#8 := by decide +kernel

theorem DispatchOk.mono {p q : Prop} {s : State} {o : Out} (hpq : p → q) (h : DispatchOk p s o) : DispatchOk q s o := by
  cases o with
  | next t =>
    obtain ⟨made, sent, ex, st, r, res, h1, h2, h3, h4⟩ := h
    exact ⟨made, sent, ex, st, r, res, h1, fun hx => ⟨hpq (h2 hx).1, (h2 hx).2⟩, h3, h4⟩
  | fault r => exact h
  | refused r => exact h

theorem execDispatch_ok (s : State) : DispatchOk (mayExit .dispatch s) s (execDispatch s) := by
  unfold execDispatch
  split
  · exact respond_dispatchOk _ s _ _ _ rfl
  · next hv =>
    split
    · exact notHandled_ok _ s _ rfl
    · next hr =>
      exact (runArm_ok _ s).mono fun h =>
        .inr ⟨decodeCmd_exitApp _ h, .inr ⟨rfl, by simpa using hv, by simpa [Message.isResponse] using hr⟩⟩

/-- All that an instruction of the dispatcher can do. -/
theorem exec_dispatchOk (i : Instr) (s : State) (h : dispatches i = true) : DispatchOk (mayExit i s) s (exec i s) := by
  cases i <;> first | (simp [dispatches] at h; done) | skip
  case dispatch => exact execDispatch_ok s
  case frameRequest f =>
    exact (runArm_ok _ s).mono fun h => .inr ⟨decodeCmd_exitApp _ h, .inl ⟨f, rfl⟩⟩
  case frameResponse f => exact notHandled_ok _ s _ rfl
  case appList => exact execAppList_ok _ s
  case startApp => exact execStartApp_ok _ s
  case exitApp => exact execExitApp_ok (.inl rfl) s
  case curAppInfo => exact execCurAppInfo_ok _ s
  case appInfo => exact execAppInfo_ok _ s
  all_goals exact notHandled_ok _ s _ rfl

end Sys2Proof.Machine
end

