-- ==== Sys2Proof/Laws/Exec.lean ====
section
/-! SUPPORT. What exec, fetch and step are: the arm of every constructor, and the step with and without a pending
operation. -/

namespace Sys2Proof.Machine

@[simp] theorem fetch_nil (s : State) (h : s.inputs = []) : fetch s = none := by simp [fetch, h]

theorem fetch_cons (s : State) (inp : Input) (rest : List Input) (h : s.inputs = inp :: rest) :
    fetch s = some (decodeHost inp.request, s.accept inp rest) := by simp [fetch, h]

/-- With no operation pending the engine waits. -/
theorem step_waits (s : State) (h : fetch s = none) : step s = .next s := by simp [step, h]

/-- With an operation pending, the step is exec of what the fetch decoded. -/
theorem step_fetched (s : State) (i : Instr) (t : State) (h : fetch s = some (i, t)) : step s = exec i t := by
  simp [step, h]

/-- What a step that answers a next state has done: waited, or run the fetched instruction. -/
theorem step_cases (s t : State) (h : step s = .next t) :
    (fetch s = none ∧ t = s) ∨ ∃ i s1, fetch s = some (i, s1) ∧ exec i s1 = .next t := by
  unfold step at h
  split at h
  · next hf => cases h; exact .inl ⟨hf, rfl⟩
  · next i s1 hf => exact .inr ⟨i, s1, hf, h⟩

/-- A table word placed by `withFetchWord` is what the next fetch decodes. -/
theorem fetch_withFetchWord (s : State) (nbits w : Nat) :
    fetch (s.withFetchWord nbits w) =
      some (decodeHost (tableRequest nbits w), s) := rfl

end Sys2Proof.Machine
end

