-- ==== Sys2Proof/Laws/Faults.lean ====
section
/-! SUPPORT. Why the dispatcher faults: each shared operation's fault is explained by a duty that an agent broke, and by the
call that the same operation makes when the agents keep their duties. -/

namespace Sys2Proof.Machine

/-! ### Calls of an outcome -/

/-- The outcome is a next state that has called `c` since the state. -/
def Calls (s : State) (c : AgentCall) (o : Out) : Prop := ∃ t made, o = .next t ∧ t.calls = s.calls ++ made ∧ c ∈ made

/-- The calls of an outcome of `exec` are those that `callsWith` lists. -/
theorem mem_callsWith {i : Instr} {s : State} {e : Env} {c : AgentCall}
    (h : Calls s c (exec i { s with env := e })) : c ∈ callsWith i s e := by
  obtain ⟨t, made, h1, h2, h3⟩ := h
  simpa [callsWith, h1, h2] using h3

/-- With dutiful answers an operation of the dispatcher goes on, and only adds calls. -/
theorem dutiful_next {may : Prop} {s : State} {o : Out} (h : DispatchOk may s o) (ha : s.env.apps = [])
    (hc : s.env.currentApp = []) (hs : s.env.sink = .all) : ∃ t made, o = .next t ∧ t.calls = s.calls ++ made := by
  cases o with
  | next t =>
    obtain ⟨made, sent, ex, st, r, res, _, _, _, h4⟩ := h
    exact ⟨t, made, rfl, by rw [h4]⟩
  | fault r => cases r <;> simp [DispatchOk, faultCause, ha, hc, hs, noNul] at h
  | refused r => exact h.elim

/-- A call made first, with dutiful answers, is among the calls. -/
theorem Calls.first {may : Prop} {s : State} {c : AgentCall} {o : Out} (h : DispatchOk may (s.logCall c) o)
    (ha : s.env.apps = []) (hc : s.env.currentApp = []) (hs : s.env.sink = .all) : Calls s c o := by
  obtain ⟨t, made, ho, hm⟩ := dutiful_next h ha hc hs
  exact ⟨t, c :: made, ho, by simpa [State.logCall] using hm, List.mem_cons_self ..⟩

/-- A call made after another is among the calls. -/
theorem Calls.later {s : State} {c d : AgentCall} {o : Out} (h : Calls (s.logCall d) c o) : Calls s c o := by
  obtain ⟨t, made, ho, hc, hm⟩ := h
  exact ⟨t, d :: made, ho, by simpa [State.logCall] using hc, List.mem_cons_of_mem _ hm⟩

/-! ### A sink that claims too much -/

/-- A fault of `o` is the sink's, which claims more bytes than the frame has that `o'`, from `s'`, writes. -/
def Overrun (s s' : State) (o o' : Out) : Prop :=
  ∀ r, o = .fault r →
    r = .sinkOverrun ∧ ∃ n f, s.env.sink = .count n ∧ n > f.length ∧ Calls s' (.sinkWrite f) o'

theorem send_overrun (s s' : State) (e : Except Reason Bytes) (r : Reason) (h : s'.env.sink = .all) :
    Overrun s s' (send s e r) (send s' e r) := by
  intro x hx
  cases e with
  | error y => cases hx
  | ok f =>
    unfold send sinkWrite at hx
    cases hs : s.env.sink with
    | all => simp [hs, finishDispatch, respond] at hx
    | error => simp [hs, finishDispatch, respond] at hx
    | count n =>
      simp only [hs] at hx
      split at hx
      · next hn =>
        cases hx
        exact ⟨rfl, n, f, rfl, hn, _, [.sinkWrite f],
          by simp only [send, sinkWrite, h, finishDispatch, respond]; rfl,
          by simp [State.setStatus, State.setResponse, State.markReplied, State.logCall], by simp⟩
      · split at hx <;> cases hx

theorem replyOk_overrun (s s' : State) (body : Bytes) (h : s'.env.sink = .all) (hc : s'.cfg = s.cfg)
    (hm : s'.cfgMagic = s.cfgMagic) (hb : s'.msg.cmd = s.msg.cmd) :
    Overrun s s' (replyOk s body) (replyOk s' body) := by
  unfold replyOk State.encodeWith
  rw [hc, hm, hb]
  exact send_overrun s s' _ _ h

theorem replyErr_overrun (s s' : State) (code : Byte) (site : Site) (h : s'.env.sink = .all) (hc : s'.cfg = s.cfg)
    (hm : s'.cfgMagic = s.cfgMagic) (hb : s'.msg.cmd = s.msg.cmd) :
    Overrun s s' (replyErr s code site) (replyErr s' code site) := by
  unfold replyErr State.encodeWith
  rw [hc, hm, hb]
  exact send_overrun s s' _ _ h

theorem Overrun.afterCall {s s' : State} {o o' : Out} {c : AgentCall} (h : Overrun (s.logCall c) (s'.logCall c) o o') :
    Overrun s s' o o' := by
  intro r hr
  obtain ⟨h1, n, f, h2, h3, h4⟩ := h r hr
  exact ⟨h1, n, f, h2, h3, h4.later⟩

/-! ### Every fault -/

/-- A fault of `o` breaks a duty of an agent that is called when `run` is given dutiful answers, or answers whose sink
writes all. -/
def Explained (s : State) (o : Out) (run : Env → Out) : Prop :=
  ∀ r, o = .fault r → match r with
    | .tooManyApps => s.env.apps.length > 255 ∧ Calls s .listApps (run s.env.dutiful)
    | .nulInString =>
        (s.env.apps.all appClean = false ∧ Calls s .listApps (run s.env.dutiful)) ∨
          (noNul s.env.currentApp = false ∧ Calls s .currentAppId (run s.env.dutiful))
    | .sinkOverrun => ∃ n f, s.env.sink = .count n ∧ Calls s (.sinkWrite f) (run s.env.sinkAll) ∧ n > f.length

/-- What explains the faults of an operation: a broken duty. -/
theorem Explained.brokenDuty {i : Instr} {s : State} {r : Fault} (h : exec i s = .fault r)
    (hx : Explained s (exec i s) (fun e => exec i { s with env := e })) : brokenDuty i s r := by
  have hr := hx r h
  cases r with
  | tooManyApps => exact ⟨hr.1, mem_callsWith hr.2⟩
  | nulInString => exact hr.imp (fun h => ⟨h.1, mem_callsWith h.2⟩) (fun h => ⟨h.1, mem_callsWith h.2⟩)
  | sinkOverrun =>
    obtain ⟨n, f, h1, h2, h3⟩ := hr
    exact ⟨n, f, h1, mem_callsWith h2, h3⟩

theorem Overrun.explained {s : State} {o : Out} {run : Env → Out}
    (h : Overrun s { s with env := s.env.sinkAll } o (run s.env.sinkAll)) : Explained s o run := by
  intro r hr
  obtain ⟨rfl, n, f, h1, h2, h3⟩ := h r hr
  exact ⟨n, f, h1, h3, h2⟩

/-- An operation that asks for the list and then sends one reply. -/
theorem queryApps_explained {may : Prop} (s : State) (k : List AppRecord → State → Out)
    (hk : DispatchOk may (({ s with env := s.env.dutiful } : State).logCall .listApps)
      (k [] (({ s with env := s.env.dutiful } : State).logCall .listApps)))
    (h : Overrun (s.logCall .listApps) (({ s with env := s.env.sinkAll } : State).logCall .listApps)
      (k s.env.apps (s.logCall .listApps)) (k s.env.apps (({ s with env := s.env.sinkAll } : State).logCall .listApps))) :
    Explained s (queryApps s k) (fun e => queryApps { s with env := e } k) := by
  have hd : Calls s .listApps (queryApps { s with env := s.env.dutiful } k) := by
    rw [queryApps_ok _ _ ⟨by simp [Env.dutiful], by simp [Env.dutiful]⟩]
    exact Calls.first (s := { s with env := s.env.dutiful }) hk rfl rfl rfl
  intro r hr
  unfold queryApps at hr
  split at hr
  · next h1 => cases hr; exact ⟨h1, hd⟩
  · next h1 =>
    split at hr
    · next h2 =>
      obtain ⟨rfl, n, f, h3, h4, h5⟩ := h r hr
      refine ⟨n, f, h3, ?_, h4⟩
      show Calls s _ (queryApps { s with env := s.env.sinkAll } k)
      rw [queryApps_ok { s with env := s.env.sinkAll } k ⟨by simpa [Env.sinkAll] using h1, h2⟩]
      exact Calls.later (s := { s with env := s.env.sinkAll }) h5
    · next h2 => cases hr; exact .inl ⟨by simpa using h2, hd⟩

end Sys2Proof.Machine
end

