-- ==== Sys2Proof/Laws/Memory.lean ====
section
/-! SUPPORT. The accumulator space as memory: its (address, byte) view is canonical in every state, so every operation
keeps it, and lists exactly the bytes that `memByte` reads. -/

namespace Sys2Proof.Machine

/-- The pairs of a byte string numbered from `k` on have strictly rising addresses. -/
theorem zipIdx_rising (b : Bytes) (k : Nat) :
    memoryWf ((b.zipIdx k).map (fun p => (p.2, p.1))) ∧
      ∀ p ∈ (b.zipIdx k).map (fun p => (p.2, p.1)), k ≤ p.1 := by
  induction b generalizing k with
  | nil => simp [memoryWf]
  | cons x b ih =>
    obtain ⟨h1, h2⟩ := ih (k + 1)
    simp only [List.zipIdx_cons, List.map_cons, memoryWf, List.pairwise_cons]
    refine ⟨⟨fun p hp => ?_, h1⟩, fun p hp => ?_⟩
    · have := h2 p hp; simp; omega
    · rcases List.mem_cons.1 hp with rfl | hp
      · simp
      · have := h2 p hp; omega

/-- The memory of every state is in canonical form. -/
theorem memory_wf (s : State) : memoryWf s.memory := (zipIdx_rising s.acc 0).1

theorem reset_memory : State.reset.memory = [] := rfl

/-- The memory lists a byte at an address exactly when that address of the accumulator holds it. -/
theorem mem_memory_iff (s : State) (a : Nat) (b : Byte) : (a, b) ∈ s.memory ↔ memByte s a = some b := by
  simp [State.memory, memByte, List.mem_zipIdx_iff_getElem?]

/-- An append leaves the bytes already held where they are. -/
theorem memByte_append_left (s : State) (d : Bytes) (a : Nat) (h : a < s.acc.length) :
    memByte (s.setAcc (s.acc ++ d)) a = memByte s a := by
  simp [memByte, List.getElem?_append_left h]

/-- The appended bytes stand after the bytes already held. -/
theorem memByte_append_right (s : State) (d : Bytes) (a : Nat) :
    memByte (s.setAcc (s.acc ++ d)) (s.acc.length + a) = d[a]? := by
  simp [memByte, List.getElem?_append_right]

/-- A prefix discard moves every byte `k` addresses down. -/
theorem memByte_discard (s : State) (k a : Nat) : memByte (s.discard k) a = memByte s (k + a) := by
  simp [memByte, slice_to_end]

end Sys2Proof.Machine
end

