-- ==== Sys2Proof/Laws/PerInstr.lean ====
section
/-! SUPPORT. The per-instruction family InRow: a well-formed instruction's encoding lies in its own row of
spec/opcode_table.json, in the row's format and with the row's match under its mask. -/

namespace Sys2Proof.Laws.InRow

open Sys2Proof

/-- The columns "format", "match" and "mask" of an instruction's row of spec/opcode_table.json. -/
def row : Instr → String × Byte × Byte
  | .init _ => ("HOSTOP", 0x00#8, 0xFF#8)
  | .encode _ _ _ _ _ _ => ("HOSTOP", 0x01#8, 0xFF#8)
  | .encRespOk _ _ _ => ("HOSTOP", 0x02#8, 0xFF#8)
  | .encReport _ _ _ => ("HOSTOP", 0x03#8, 0xFF#8)
  | .encRespErr _ _ _ _ => ("HOSTOP", 0x04#8, 0xFF#8)
  | .decodeAt _ _ => ("HOSTOP", 0x05#8, 0xFF#8)
  | .push _ => ("HOSTOP", 0x06#8, 0xFF#8)
  | .tryDecode => ("HOSTOP", 0x07#8, 0xFF#8)
  | .dispatch => ("HOSTOP", 0x08#8, 0xFF#8)
  | .rdreg _ => ("HOSTOP", 0x09#8, 0xFF#8)
  | .illegal0A _ => ("HOSTOP", 0x0A#8, 0xFE#8)
  | .illegal0C _ => ("HOSTOP", 0x0C#8, 0xFC#8)
  | .illegal10 _ => ("HOSTOP", 0x10#8, 0xF0#8)
  | .illegal20 _ => ("HOSTOP", 0x20#8, 0xE0#8)
  | .illegal40 _ => ("HOSTOP", 0x40#8, 0xC0#8)
  | .illegal80 _ => ("HOSTOP", 0x80#8, 0x80#8)
  | .setReport => ("CMD", 0xF8#8, 0xFF#8)
  | .appList => ("CMD", 0xF9#8, 0xFF#8)
  | .startApp => ("CMD", 0xFA#8, 0xFF#8)
  | .exitApp => ("CMD", 0xFB#8, 0xFF#8)
  | .curAppInfo => ("CMD", 0xFC#8, 0xFF#8)
  | .appInfo => ("CMD", 0xFD#8, 0xFF#8)
  | .key => ("CMD", 0xFE#8, 0xFF#8)
  | .touch => ("CMD", 0xFF#8, 0xFF#8)
  | .appCmd00 _ => ("CMD", 0x00#8, 0x80#8)
  | .appCmd80 _ => ("CMD", 0x80#8, 0xC0#8)
  | .appCmdC0 _ => ("CMD", 0xC0#8, 0xF8#8)
  | .reservedC8 _ => ("CMD", 0xC8#8, 0xF8#8)
  | .reservedD0 _ => ("CMD", 0xD0#8, 0xF0#8)
  | .reservedE0 _ => ("CMD", 0xE0#8, 0xF0#8)
  | .reservedF0 _ => ("CMD", 0xF0#8, 0xF8#8)
  | .frameRequest _ => ("FLAGS", 0x00#8, 0x80#8)
  | .frameResponse _ => ("FLAGS", 0x80#8, 0x80#8)

/-- The format an encoding is of. -/
def format : Code → String
  | .host _ => "HOSTOP"
  | .cmd _ => "CMD"
  | .flags _ => "FLAGS"

/-- A well-formed instruction is encoded in its row. -/
def Statement (i : Instr) : Prop :=
  i.wf = true → format (encode i) = (row i).1 ∧ (encode i).byte &&& (row i).2.2 = (row i).2.1

theorem init (magic : Word) : Statement (.init magic) := fun _ => ⟨rfl, (show 0x00#8 &&& 0xFF#8 = 0x00#8 by decide)⟩
theorem encode (cmd flags : Byte) (body : Bytes) (err : Option Byte) (version : Byte) (dstCap : Word) : Statement (.encode cmd flags body err version dstCap) :=
  fun _ => ⟨rfl, (show 0x01#8 &&& 0xFF#8 = 0x01#8 by decide)⟩
theorem encRespOk (cmd : Byte) (body : Bytes) (dstCap : Word) : Statement (.encRespOk cmd body dstCap) :=
  fun _ => ⟨rfl, (show 0x02#8 &&& 0xFF#8 = 0x02#8 by decide)⟩
theorem encReport (cmd : Byte) (body : Bytes) (dstCap : Word) : Statement (.encReport cmd body dstCap) :=
  fun _ => ⟨rfl, (show 0x03#8 &&& 0xFF#8 = 0x03#8 by decide)⟩
theorem encRespErr (cmd code : Byte) (message : Bytes) (dstCap : Word) : Statement (.encRespErr cmd code message dstCap) :=
  fun _ => ⟨rfl, (show 0x04#8 &&& 0xFF#8 = 0x04#8 by decide)⟩
theorem decodeAt (buffer : Bytes) (magic : Word) : Statement (.decodeAt buffer magic) :=
  fun _ => ⟨rfl, (show 0x05#8 &&& 0xFF#8 = 0x05#8 by decide)⟩
theorem push (data : Bytes) : Statement (.push data) := fun _ => ⟨rfl, (show 0x06#8 &&& 0xFF#8 = 0x06#8 by decide)⟩
theorem tryDecode : Statement (.tryDecode) := fun _ => ⟨rfl, by decide⟩
theorem dispatch : Statement (.dispatch) := fun _ => ⟨rfl, by decide⟩
theorem rdreg (index : Byte) : Statement (.rdreg index) := fun _ => ⟨rfl, (show 0x09#8 &&& 0xFF#8 = 0x09#8 by decide)⟩
theorem illegal0A (byte : Byte) : Statement (.illegal0A byte) :=
  fun h => ⟨rfl, (show ∀ b : Byte, byteIn 0x0A 0x0B b = true → b &&& 0xFE#8 = 0x0A#8 by decide +kernel) byte h⟩
theorem illegal0C (byte : Byte) : Statement (.illegal0C byte) :=
  fun h => ⟨rfl, (show ∀ b : Byte, byteIn 0x0C 0x0F b = true → b &&& 0xFC#8 = 0x0C#8 by decide +kernel) byte h⟩
theorem illegal10 (byte : Byte) : Statement (.illegal10 byte) :=
  fun h => ⟨rfl, (show ∀ b : Byte, byteIn 0x10 0x1F b = true → b &&& 0xF0#8 = 0x10#8 by decide +kernel) byte h⟩
theorem illegal20 (byte : Byte) : Statement (.illegal20 byte) :=
  fun h => ⟨rfl, (show ∀ b : Byte, byteIn 0x20 0x3F b = true → b &&& 0xE0#8 = 0x20#8 by decide +kernel) byte h⟩
theorem illegal40 (byte : Byte) : Statement (.illegal40 byte) :=
  fun h => ⟨rfl, (show ∀ b : Byte, byteIn 0x40 0x7F b = true → b &&& 0xC0#8 = 0x40#8 by decide +kernel) byte h⟩
theorem illegal80 (byte : Byte) : Statement (.illegal80 byte) :=
  fun h => ⟨rfl, (show ∀ b : Byte, byteIn 0x80 0xFF b = true → b &&& 0x80#8 = 0x80#8 by decide +kernel) byte h⟩
theorem setReport : Statement (.setReport) := fun _ => ⟨rfl, by decide⟩
theorem appList : Statement (.appList) := fun _ => ⟨rfl, by decide⟩
theorem startApp : Statement (.startApp) := fun _ => ⟨rfl, by decide⟩
theorem exitApp : Statement (.exitApp) := fun _ => ⟨rfl, by decide⟩
theorem curAppInfo : Statement (.curAppInfo) := fun _ => ⟨rfl, by decide⟩
theorem appInfo : Statement (.appInfo) := fun _ => ⟨rfl, by decide⟩
theorem key : Statement (.key) := fun _ => ⟨rfl, by decide⟩
theorem touch : Statement (.touch) := fun _ => ⟨rfl, by decide⟩
theorem appCmd00 (cmd : Byte) : Statement (.appCmd00 cmd) :=
  fun h => ⟨rfl, (show ∀ b : Byte, byteIn 0x00 0x7F b = true → b &&& 0x80#8 = 0x00#8 by decide +kernel) cmd h⟩
theorem appCmd80 (cmd : Byte) : Statement (.appCmd80 cmd) :=
  fun h => ⟨rfl, (show ∀ b : Byte, byteIn 0x80 0xBF b = true → b &&& 0xC0#8 = 0x80#8 by decide +kernel) cmd h⟩
theorem appCmdC0 (cmd : Byte) : Statement (.appCmdC0 cmd) :=
  fun h => ⟨rfl, (show ∀ b : Byte, byteIn 0xC0 0xC7 b = true → b &&& 0xF8#8 = 0xC0#8 by decide +kernel) cmd h⟩
theorem reservedC8 (cmd : Byte) : Statement (.reservedC8 cmd) :=
  fun h => ⟨rfl, (show ∀ b : Byte, byteIn 0xC8 0xCF b = true → b &&& 0xF8#8 = 0xC8#8 by decide +kernel) cmd h⟩
theorem reservedD0 (cmd : Byte) : Statement (.reservedD0 cmd) :=
  fun h => ⟨rfl, (show ∀ b : Byte, byteIn 0xD0 0xDF b = true → b &&& 0xF0#8 = 0xD0#8 by decide +kernel) cmd h⟩
theorem reservedE0 (cmd : Byte) : Statement (.reservedE0 cmd) :=
  fun h => ⟨rfl, (show ∀ b : Byte, byteIn 0xE0 0xEF b = true → b &&& 0xF0#8 = 0xE0#8 by decide +kernel) cmd h⟩
theorem reservedF0 (cmd : Byte) : Statement (.reservedF0 cmd) :=
  fun h => ⟨rfl, (show ∀ b : Byte, byteIn 0xF0 0xF7 b = true → b &&& 0xF8#8 = 0xF0#8 by decide +kernel) cmd h⟩
theorem frameRequest (flags : Byte) : Statement (.frameRequest flags) :=
  fun h => ⟨rfl, (show ∀ b : Byte, Instr.wf (.frameRequest b) = true → b &&& 0x80#8 = 0x00#8 by decide +kernel) flags h⟩
theorem frameResponse (flags : Byte) : Statement (.frameResponse flags) :=
  fun h => ⟨rfl, (show ∀ b : Byte, Instr.wf (.frameResponse b) = true → b &&& 0x80#8 = 0x80#8 by decide +kernel) flags h⟩

end Sys2Proof.Laws.InRow
end

