-- ==== Sys2Proof/Tests/Slice0.lean ====
section
/-! SUPPORT. The model's own tests. Expected values are those of spec/opcode_table.json, 30_encoding.md and
95_test_vectors.md, each named beside its test. After them, for every statement with hypotheses, a witness that meets
all of them. -/

-- One theorem at a time: many kernel evaluations at once exhaust the threads of a small machine.
set_option Elab.async false

namespace Sys2Proof.Tests

open Sys2Proof.Machine

/-! ## The setup of 95_test_vectors.md -/

/-- The configuration of 95_test_vectors.md's vectors: capacity 64, EXACT, the codes 1 and 2, empty texts, REPLY_CAP 256. -/
def cfg : Config :=
  { accCapacity := 64, errLenMode := .exact, errcodeArgs := 0x01#8, errcodeNotFound := 0x02#8, msgStartArgs := [],
    msgStartNotFound := [], msgExitFail := [], msgInfoArgs := [], replyCap := 256 }

/-- "cam", "face" -/
def cam : Bytes := [0x63#8, 0x61#8, 0x6D#8]
def face : Bytes := [0x66#8, 0x61#8, 0x63#8, 0x65#8]

/-- The registry of 95_test_vectors.md's vectors: (cam, Camera, d1) and (face, Face, d2). -/
def apps : List AppRecord :=
  [{ id := cam, name := [0x43#8, 0x61#8, 0x6D#8, 0x65#8, 0x72#8, 0x61#8], description := [0x64#8, 0x31#8],
     executableRef := [] },
   { id := face, name := [0x46#8, 0x61#8, 0x63#8, 0x65#8], description := [0x64#8, 0x32#8], executableRef := [] }]

/-- The agents of 95_test_vectors.md's vectors: the current app is face, and the sink takes every byte. -/
def env : Env := { apps := apps, switchResult := .ok, exitResult := .ok, currentApp := face, sink := .all }

/-- After reset, with that configuration and those agents. -/
def ready : State := { State.reset with cfg := cfg, env := env }

/-- `ready` with a message in the message register. -/
def holding (flags cmd : Byte) (body : Bytes) : State :=
  { ready with msgValid := true, msg := { flags := flags, cmd := cmd, body := body, hasBeenReplied := false } }

/-- `ready` with bytes in the accumulator. -/
def received (b : Bytes) : State := { ready with acc := b }

/-- `P`, the ping frame of 95_test_vectors.md. -/
def ping : Bytes := [0xAA#8, 0xCA#8, 0xAC#8, 0xBB#8, 0x08#8, 0x00#8, 0x00#8, 0x00#8, 0x01#8] ++ [0x01#8, 0x70#8, 0x69#8, 0x6E#8, 0x67#8, 0x49#8, 0x3B#8]

/-- "ping" -/
def pingBody : Bytes := [0x70#8, 0x69#8, 0x6E#8, 0x67#8]

/-- The response of an outcome. -/
def answer : Out → Option Response
  | .next t => t.response
  | .fault _ => none
  | .refused _ => none

/-- A property of the next state of an outcome. -/
def holdsAfter (o : Out) (p : State → Bool) : Bool :=
  match o with
  | .next t => p t
  | .fault _ => false
  | .refused _ => false

theorem next_with {o : Out} (p : State → Bool) (h : holdsAfter o p = true) : ∃ t, o = .next t ∧ p t = true := by
  cases o with
  | next t => exact ⟨t, rfl, h⟩
  | fault r => cases h
  | refused r => cases h

theorem next_of {o : Out} (h : holdsAfter o (fun _ => true) = true) : ∃ t, o = .next t :=
  (next_with _ h).imp fun _ h => h.1

/-- Calls, replied bit, STATUS and EXIT_REQ after an outcome: the columns of 95_test_vectors.md section 2.5. -/
def columns (o : Out) : Option (List AgentCall × Bool × StatusReg × Bool) :=
  match o with
  | .next t => some (t.calls, t.msg.hasBeenReplied, t.status, t.exitReq)
  | .fault _ => none
  | .refused _ => none

/-! ## WellFormed: an ill-formed term for each check -/

theorem test_wf_illegal0A_0C : (Instr.illegal0A 0x0C#8).wf = false := by decide
theorem test_wf_illegal0A_09 : (Instr.illegal0A 0x09#8).wf = false := by decide
theorem test_wf_illegal0C_10 : (Instr.illegal0C 0x10#8).wf = false := by decide
theorem test_wf_illegal10_0F : (Instr.illegal10 0x0F#8).wf = false := by decide
theorem test_wf_illegal20_40 : (Instr.illegal20 0x40#8).wf = false := by decide
theorem test_wf_illegal40_80 : (Instr.illegal40 0x80#8).wf = false := by decide
theorem test_wf_illegal80_7F : (Instr.illegal80 0x7F#8).wf = false := by decide
theorem test_wf_appCmd00_80 : (Instr.appCmd00 0x80#8).wf = false := by decide
theorem test_wf_appCmd80_C0 : (Instr.appCmd80 0xC0#8).wf = false := by decide
theorem test_wf_appCmdC0_C8 : (Instr.appCmdC0 0xC8#8).wf = false := by decide
theorem test_wf_reservedC8_D0 : (Instr.reservedC8 0xD0#8).wf = false := by decide
theorem test_wf_reservedD0_CF : (Instr.reservedD0 0xCF#8).wf = false := by decide
theorem test_wf_reservedE0_F0 : (Instr.reservedE0 0xF0#8).wf = false := by decide
theorem test_wf_reservedF0_F8 : (Instr.reservedF0 0xF8#8).wf = false := by decide
/-- Bit 7 set is no request; version 2 is invalid. -/
theorem test_wf_frameRequest_response : (Instr.frameRequest 0x81#8).wf = false := by decide
theorem test_wf_frameRequest_version : (Instr.frameRequest 0x02#8).wf = false := by decide
/-- Bit 7 clear is no response; version 0 is invalid. -/
theorem test_wf_frameResponse_request : (Instr.frameResponse 0x41#8).wf = false := by decide
theorem test_wf_frameResponse_version : (Instr.frameResponse 0xC0#8).wf = false := by decide

/-! ## Decoding: for every constructor a word written out from spec/opcode_table.json -/

/-- An argument record with every argument different, to see that each operation reads its own (30_encoding.md R116). -/
def args : Args :=
  { magic := 0x12345678#32, cmd := 0x21#8, flags := 0xE0#8, err := some 0x33#8, version := 0x05#8, code := 0x44#8,
    dstCap := 99#32, index := 0x06#8, bytes := [0x61#8, 0x62#8] }

theorem test_decode_init : decode (.host ⟨0b00000000#8, args⟩) = .ok (.init 0x12345678#32) := rfl
theorem test_decode_encode : decode (.host ⟨0b00000001#8, args⟩) = .ok (.encode 0x21#8 0xE0#8 [0x61#8, 0x62#8] (some 0x33#8) 0x05#8 99#32) := rfl
theorem test_decode_encRespOk : decode (.host ⟨0b00000010#8, args⟩) = .ok (.encRespOk 0x21#8 [0x61#8, 0x62#8] 99#32) := rfl
theorem test_decode_encReport : decode (.host ⟨0b00000011#8, args⟩) = .ok (.encReport 0x21#8 [0x61#8, 0x62#8] 99#32) := rfl
theorem test_decode_encRespErr : decode (.host ⟨0b00000100#8, args⟩) = .ok (.encRespErr 0x21#8 0x44#8 [0x61#8, 0x62#8] 99#32) := rfl
theorem test_decode_decodeAt : decode (.host ⟨0b00000101#8, args⟩) = .ok (.decodeAt [0x61#8, 0x62#8] 0x12345678#32) := rfl
theorem test_decode_push : decode (.host ⟨0b00000110#8, args⟩) = .ok (.push [0x61#8, 0x62#8]) := rfl
theorem test_decode_tryDecode : decode (.host ⟨0b00000111#8, args⟩) = .ok (.tryDecode) := rfl
theorem test_decode_dispatch : decode (.host ⟨0b00001000#8, args⟩) = .ok (.dispatch) := rfl
theorem test_decode_rdreg : decode (.host ⟨0b00001001#8, args⟩) = .ok (.rdreg 0x06#8) := rfl
theorem test_decode_illegal0A : decode (.host ⟨0b00001011#8, args⟩) = .ok (.illegal0A 0b00001011#8) := rfl
theorem test_decode_illegal0C : decode (.host ⟨0b00001100#8, args⟩) = .ok (.illegal0C 0b00001100#8) := rfl
theorem test_decode_illegal10 : decode (.host ⟨0b00010101#8, args⟩) = .ok (.illegal10 0b00010101#8) := rfl
theorem test_decode_illegal20 : decode (.host ⟨0b00111111#8, args⟩) = .ok (.illegal20 0b00111111#8) := rfl
theorem test_decode_illegal40 : decode (.host ⟨0b01000000#8, args⟩) = .ok (.illegal40 0b01000000#8) := rfl
theorem test_decode_illegal80 : decode (.host ⟨0b10000000#8, args⟩) = .ok (.illegal80 0b10000000#8) := rfl
theorem test_decode_setReport : decode (.cmd 0b11111000#8) = .ok .setReport := rfl
theorem test_decode_appList : decode (.cmd 0b11111001#8) = .ok .appList := rfl
theorem test_decode_startApp : decode (.cmd 0b11111010#8) = .ok .startApp := rfl
theorem test_decode_exitApp : decode (.cmd 0b11111011#8) = .ok .exitApp := rfl
theorem test_decode_curAppInfo : decode (.cmd 0b11111100#8) = .ok .curAppInfo := rfl
theorem test_decode_appInfo : decode (.cmd 0b11111101#8) = .ok .appInfo := rfl
theorem test_decode_key : decode (.cmd 0b11111110#8) = .ok .key := rfl
theorem test_decode_touch : decode (.cmd 0b11111111#8) = .ok .touch := rfl
theorem test_decode_appCmd00 : decode (.cmd 0b01111111#8) = .ok (.appCmd00 0b01111111#8) := rfl
theorem test_decode_appCmd80 : decode (.cmd 0b10000000#8) = .ok (.appCmd80 0b10000000#8) := rfl
theorem test_decode_appCmdC0 : decode (.cmd 0b11000111#8) = .ok (.appCmdC0 0b11000111#8) := rfl
theorem test_decode_reservedC8 : decode (.cmd 0b11001000#8) = .ok (.reservedC8 0b11001000#8) := rfl
theorem test_decode_reservedD0 : decode (.cmd 0b11011111#8) = .ok (.reservedD0 0b11011111#8) := rfl
theorem test_decode_reservedE0 : decode (.cmd 0b11100000#8) = .ok (.reservedE0 0b11100000#8) := rfl
theorem test_decode_reservedF0 : decode (.cmd 0b11110111#8) = .ok (.reservedF0 0b11110111#8) := rfl
theorem test_decode_frameRequest : decode (.flags 0b01100001#8) = .ok (.frameRequest 0b01100001#8) := by decide
theorem test_decode_frameResponse : decode (.flags 0b10011101#8) = .ok (.frameResponse 0b10011101#8) := by decide

/-- Versions 0, 2 and 3 are rejected by name (30_encoding.md R108). -/
theorem test_decode_reject_versions : decode (.flags 0b11000000#8) = .error (.badVersion 0b11000000#8) ∧
    decode (.flags 0b00000010#8) = .error (.badVersion 0b00000010#8) ∧
    decode (.flags 0b00000011#8) = .error (.badVersion 0b00000011#8) := by decide

/-- The numbering of spec/opcode_table.json: PUSH is OP 6, TRY_DECODE OP 7; the arguments of a table word are empty. -/
theorem test_table_push : decodeTableWord 8 6 = some (.push []) := rfl
theorem test_table_tryDecode : decodeTableWord 8 7 = some .tryDecode := rfl
theorem test_table_reserved : decodeTableWord 8 0x15 = some (.illegal10 0x15#8) := rfl

/-- A table word placed for the next fetch is the instruction the next step runs, from reset itself. -/
theorem test_step_fetches_push : holdsAfter (step (State.reset.withFetchWord 8 6))
    (fun t => decide (t.response = some ⟨.ok, .none, .none⟩ ∧ t.inputs = [])) = true := by decide +kernel
theorem test_step_fetches_reserved : holdsAfter (step (State.reset.withFetchWord 8 0xFF))
    (fun t => decide (t.status = ⟨.illegalOp, .none⟩ ∧ t.inputs = [])) = true := by decide +kernel

/-! ## The host operations (95_test_vectors.md sections 2.1 to 2.4) -/

/-- C6, and C10: the CRC of the ping frame without its last two bytes -/
theorem test_crc_check_string :
    crc16 [0x31#8, 0x32#8, 0x33#8, 0x34#8, 0x35#8, 0x36#8, 0x37#8, 0x38#8, 0x39#8] = 0xBB3D#16 ∧
    crc16 (ping.take 14) = 0x3B49#16 := by decide +kernel

/-- A3 -/
theorem test_init_changes_the_magic :
    holdsAfter (exec (.init 0x12345678#32) (holding 0x01#8 0x01#8 pingBody))
    (fun t => decide (t.cfgMagic = 0x12345678#32 ∧ t.msgValid = false ∧ t.msg.cmd = 0x00#8)) = true := by decide +kernel

/-- A10 -/
theorem test_init_clears_the_accumulator :
    holdsAfter (exec (.init 0xBBACCAAA#32) (received ping)) (fun t => decide (t.acc = [] ∧ statusWord t = 0#32)) = true := by decide +kernel

/-- E8: the version field becomes 3 -/
theorem test_encode_version_bits_or :
    answer (exec (.encode 0x22#8 0x02#8 [] none 0x01#8 12#32) ready) = some ⟨.ok, .none, .frame [0xAA#8, 0xCA#8, 0xAC#8, 0xBB#8, 0x04#8, 0x00#8, 0x00#8, 0x00#8, 0x03#8, 0x22#8, 0x88#8, 0x4C#8]⟩ := by decide +kernel

/-- E9 -/
theorem test_encode_error_byte :
    answer (exec (.encode 0x05#8 0x00#8 [0x78#8] (some 0x33#8) 0x01#8 64#32) ready) = some ⟨.ok, .none, .frame [0xAA#8, 0xCA#8, 0xAC#8, 0xBB#8, 0x06#8, 0x00#8, 0x00#8, 0x00#8, 0x01#8, 0x05#8, 0x33#8, 0x78#8, 0x43#8, 0x4D#8]⟩ := by decide +kernel

/-- E11 -/
theorem test_encRespOk_smallest :
    answer (exec (.encRespOk 0xFB#8 [] 12#32) ready) = some ⟨.ok, .none, .frame [0xAA#8, 0xCA#8, 0xAC#8, 0xBB#8, 0x04#8, 0x00#8, 0x00#8, 0x00#8, 0xC1#8, 0xFB#8, 0x18#8, 0xB6#8]⟩ := by decide +kernel

/-- E13 -/
theorem test_encReport_body :
    answer (exec (.encReport 0x10#8 [0x01#8, 0x02#8] 14#32) ready) = some ⟨.ok, .none, .frame [0xAA#8, 0xCA#8, 0xAC#8, 0xBB#8, 0x06#8, 0x00#8, 0x00#8, 0x00#8, 0xE1#8, 0x10#8, 0x01#8, 0x02#8, 0xF1#8, 0xCA#8]⟩ := by decide +kernel

/-- E15 -/
theorem test_encRespErr_exact :
    answer (exec (.encRespErr 0xFA#8 0x01#8 [0x62#8, 0x61#8, 0x64#8] 16#32) ready) = some ⟨.ok, .none, .frame [0xAA#8, 0xCA#8, 0xAC#8, 0xBB#8, 0x08#8, 0x00#8, 0x00#8, 0x00#8, 0x81#8, 0xFA#8, 0x01#8, 0x62#8, 0x61#8, 0x64#8, 0x9C#8, 0x20#8]⟩ := by decide +kernel

/-- E16 -/
theorem test_encRespErr_legacy :
    answer (exec (.encRespErr 0xFA#8 0x01#8 [0x62#8, 0x61#8, 0x64#8] 16#32) { ready with cfg := { cfg with errLenMode := .legacy } }) = some ⟨.ok, .none, .frame [0xAA#8, 0xCA#8, 0xAC#8, 0xBB#8, 0x07#8, 0x00#8, 0x00#8, 0x00#8, 0x81#8, 0xFA#8, 0x01#8, 0x62#8, 0x61#8, 0x64#8, 0xAC#8, 0x10#8]⟩ := by decide +kernel

/-- D7 -/
theorem test_decodeAt_behind_noise :
    answer (exec (.decodeAt ([0x11#8, 0x22#8, 0x33#8] ++ ping) 0xBBACCAAA#32) ready) = some ⟨.ok, .none, .found ⟨0x01#8, 0x01#8, pingBody, false⟩ 19⟩ := by decide +kernel

/-- D20 -/
theorem test_decodeAt_legacy_error_frame :
    answer (exec (.decodeAt [0xAA#8, 0xCA#8, 0xAC#8, 0xBB#8, 0x07#8, 0x00#8, 0x00#8, 0x00#8, 0x81#8, 0xFA#8, 0x01#8, 0x62#8, 0x61#8, 0x64#8, 0xAC#8, 0x10#8] 0xBBACCAAA#32) ready) = some ⟨.notFound, .crc, .notFound 15⟩ := by decide +kernel

/-- R233: the bytes already held stay in front -/
theorem test_push_appends_behind :
    holdsAfter (exec (.push [0x33#8]) (received [0x11#8, 0x22#8])) (fun t => decide (t.acc = [0x11#8, 0x22#8, 0x33#8])) = true := by decide +kernel

/-- A4, the third push, on a full accumulator of 32 -/
theorem test_push_over_capacity :
    holdsAfter (exec (.push [0x01#8]) { ready with cfg := { cfg with accCapacity := 32 }, acc := List.replicate 32 0x00#8 })
    (fun t => decide (t.acc.length = 32 ∧ statusWord t = 2#32)) = true := by decide +kernel

/-- A6 -/
theorem test_tryDecode_behind_noise :
    holdsAfter (exec .tryDecode (received ([0x11#8, 0x22#8, 0x33#8] ++ ping)))
    (fun t => decide (t.acc = [] ∧ t.lastSkip = 19#32 ∧ t.msgValid = true ∧ t.msg.body = pingBody)) = true := by decide +kernel

/-- A11 -/
theorem test_tryDecode_bad_length :
    holdsAfter (exec .tryDecode (received [0xAA#8, 0xCA#8, 0xAC#8, 0xBB#8, 0x02#8, 0x00#8, 0x00#8, 0x00#8, 0x01#8, 0x00#8, 0x00#8, 0x00#8]))
    (fun t => decide (t.acc = [0x00#8, 0x00#8] ∧ t.lastSkip = 10#32 ∧ statusWord t = 0x034#32)) = true := by decide +kernel

/-- X41 -/
theorem test_dispatch_no_message :
    columns (exec .dispatch ready) = some ([], false, ⟨.noMessage, .none⟩, false) := by decide +kernel

/-- X33: flags 0x21 is a request; the reply is that of X1 -/
theorem test_dispatch_request_with_report_bit :
    columns (exec .dispatch (holding 0x21#8 0xF9#8 [])) =
    some ([.listApps, .sinkWrite [0xAA#8, 0xCA#8, 0xAC#8, 0xBB#8, 0x0E#8, 0x00#8, 0x00#8, 0x00#8, 0xC1#8, 0xF9#8, 0x02#8, 0x63#8, 0x61#8, 0x6D#8, 0x00#8, 0x66#8, 0x61#8, 0x63#8, 0x65#8, 0x00#8, 0xB9#8, 0xA7#8]], true, ⟨.ok, .none⟩, false) := by decide +kernel

/-- A1 -/
theorem test_rdreg_accCapacity :
    answer (exec (.rdreg 0x01#8) ready) = some ⟨.ok, .none, .value 64#32⟩ := by decide +kernel

/-- A2: STATUS is not written -/
theorem test_rdreg_reserved :
    answer (exec (.rdreg 0x0A#8) ready) = some ⟨.argsError, .badIndex, .value 0#32⟩ ∧
    holdsAfter (exec (.rdreg 0x0A#8) ready) (fun t => decide (statusWord t = 0#32)) = true := by decide +kernel

/-- A12 and R322: STATUS 0x007 and nothing else -/
theorem test_illegal0A_status :
    holdsAfter (exec (.illegal0A 0x0A#8) (received ping)) (fun t => decide (statusWord t = 7#32 ∧ t.acc = ping)) = true := by decide +kernel

/-- A12 and R322: STATUS 0x007 and nothing else -/
theorem test_illegal0C_status :
    holdsAfter (exec (.illegal0C 0x0F#8) (received ping)) (fun t => decide (statusWord t = 7#32 ∧ t.acc = ping)) = true := by decide +kernel

/-- A12 and R322: STATUS 0x007 and nothing else -/
theorem test_illegal10_status :
    holdsAfter (exec (.illegal10 0x15#8) (received ping)) (fun t => decide (statusWord t = 7#32 ∧ t.acc = ping)) = true := by decide +kernel

/-- A12 and R322: STATUS 0x007 and nothing else -/
theorem test_illegal20_status :
    holdsAfter (exec (.illegal20 0x20#8) (received ping)) (fun t => decide (statusWord t = 7#32 ∧ t.acc = ping)) = true := by decide +kernel

/-- A12 and R322: STATUS 0x007 and nothing else -/
theorem test_illegal40_status :
    holdsAfter (exec (.illegal40 0x7F#8) (received ping)) (fun t => decide (statusWord t = 7#32 ∧ t.acc = ping)) = true := by decide +kernel

/-- A12 and R322: STATUS 0x007 and nothing else -/
theorem test_illegal80_status :
    holdsAfter (exec (.illegal80 0xFF#8) (received ping)) (fun t => decide (statusWord t = 7#32 ∧ t.acc = ping)) = true := by decide +kernel

/-! ## The arms of the dispatcher (95_test_vectors.md section 2.5) -/

/-- X1 -/
theorem test_appList_reply :
    columns (exec .appList (holding 0x01#8 0xF9#8 [])) =
    some ([.listApps, .sinkWrite [0xAA#8, 0xCA#8, 0xAC#8, 0xBB#8, 0x0E#8, 0x00#8, 0x00#8, 0x00#8, 0xC1#8, 0xF9#8, 0x02#8, 0x63#8, 0x61#8, 0x6D#8, 0x00#8, 0x66#8, 0x61#8, 0x63#8, 0x65#8, 0x00#8, 0xB9#8, 0xA7#8]], true, ⟨.ok, .none⟩, false) := by decide +kernel

/-- X37: the sink answers 5 -/
theorem test_appList_short_write :
    columns (exec .appList { holding 0x01#8 0xF9#8 [] with env := { env with sink := .count 5 } }) =
    some ([.listApps, .sinkWrite [0xAA#8, 0xCA#8, 0xAC#8, 0xBB#8, 0x0E#8, 0x00#8, 0x00#8, 0x00#8, 0xC1#8, 0xF9#8, 0x02#8, 0x63#8, 0x61#8, 0x6D#8, 0x00#8, 0x66#8, 0x61#8, 0x63#8, 0x65#8, 0x00#8, 0xB9#8, 0xA7#8]], true, ⟨.ioError, .shortWrite⟩, false) := by decide +kernel

/-- X5 -/
theorem test_startApp_by_index :
    columns (exec .startApp (holding 0x01#8 0xFA#8 [0x01#8, 0x00#8, 0x78#8, 0x3D#8, 0x31#8, 0x00#8])) =
    some ([.listApps, .switchApp (.index 0x01#8) [0x78#8, 0x3D#8, 0x31#8], .sinkWrite [0xAA#8, 0xCA#8, 0xAC#8, 0xBB#8, 0x04#8, 0x00#8, 0x00#8, 0x00#8, 0xC1#8, 0xFA#8, 0xD9#8, 0x76#8]], true, ⟨.ok, .none⟩, false) := by decide +kernel

/-- X10 -/
theorem test_startApp_out_of_range :
    columns (exec .startApp (holding 0x01#8 0xFA#8 [0x02#8])) =
    some ([.listApps, .sinkWrite [0xAA#8, 0xCA#8, 0xAC#8, 0xBB#8, 0x05#8, 0x00#8, 0x00#8, 0x00#8, 0x81#8, 0xFA#8, 0x02#8, 0x27#8, 0x4F#8]], true, ⟨.ok, .repliedErr⟩, false) := by decide +kernel

/-- X38: EXIT_REQ is set all the same -/
theorem test_exitApp_write_fails :
    columns (exec .exitApp { holding 0x01#8 0xFB#8 [] with env := { env with sink := .error } }) =
    some ([.requestExit, .sinkWrite [0xAA#8, 0xCA#8, 0xAC#8, 0xBB#8, 0x04#8, 0x00#8, 0x00#8, 0x00#8, 0xC1#8, 0xFB#8, 0x18#8, 0xB6#8]], true, ⟨.ioError, .writeError⟩, true) := by decide +kernel

/-- X16 -/
theorem test_exitApp_failure :
    columns (exec .exitApp { holding 0x01#8 0xFB#8 [] with env := { env with exitResult := .err 0x07#8 } }) =
    some ([.requestExit, .sinkWrite [0xAA#8, 0xCA#8, 0xAC#8, 0xBB#8, 0x05#8, 0x00#8, 0x00#8, 0x00#8, 0x81#8, 0xFB#8, 0x07#8, 0xE6#8, 0xDC#8]], true, ⟨.ok, .repliedErr⟩, false) := by decide +kernel

/-- X17 -/
theorem test_curAppInfo_reply :
    columns (exec .curAppInfo (holding 0x01#8 0xFC#8 [])) =
    some ([.currentAppId, .listApps, .sinkWrite [0xAA#8, 0xCA#8, 0xAC#8, 0xBB#8, 0x0A#8, 0x00#8, 0x00#8, 0x00#8, 0xC1#8, 0xFC#8, 0x01#8, 0x66#8, 0x61#8, 0x63#8, 0x65#8, 0x00#8, 0x98#8, 0x7E#8]], true, ⟨.ok, .none⟩, false) := by decide +kernel

/-- X18 -/
theorem test_curAppInfo_unlisted :
    columns (exec .curAppInfo { holding 0x01#8 0xFC#8 [] with env := { env with currentApp := [0x7A#8, 0x7A#8] } }) =
    some ([.currentAppId, .listApps, .sinkWrite [0xAA#8, 0xCA#8, 0xAC#8, 0xBB#8, 0x08#8, 0x00#8, 0x00#8, 0x00#8, 0xC1#8, 0xFC#8, 0xFF#8, 0x7A#8, 0x7A#8, 0x00#8, 0xA0#8, 0x14#8]], true, ⟨.ok, .none⟩, false) := by decide +kernel

/-- X19 -/
theorem test_appInfo_by_id :
    columns (exec .appInfo (holding 0x01#8 0xFD#8 [0xFF#8, 0x63#8, 0x61#8, 0x6D#8, 0x00#8])) =
    some ([.listApps, .sinkWrite [0xAA#8, 0xCA#8, 0xAC#8, 0xBB#8, 0x13#8, 0x00#8, 0x00#8, 0x00#8, 0xC1#8, 0xFD#8, 0x00#8, 0x63#8, 0x61#8, 0x6D#8, 0x00#8, 0x43#8, 0x61#8, 0x6D#8, 0x65#8, 0x72#8, 0x61#8, 0x00#8, 0x64#8, 0x31#8, 0x00#8, 0x83#8, 0x42#8]], true, ⟨.ok, .none⟩, false) := by decide +kernel

/-- X21 -/
theorem test_appInfo_out_of_range :
    columns (exec .appInfo (holding 0x01#8 0xFD#8 [0x05#8])) =
    some ([.listApps, .sinkWrite [0xAA#8, 0xCA#8, 0xAC#8, 0xBB#8, 0x05#8, 0x00#8, 0x00#8, 0x00#8, 0x81#8, 0xFD#8, 0x01#8, 0x65#8, 0x7E#8]], true, ⟨.ok, .repliedErr⟩, false) := by decide +kernel

/-- X27 -/
theorem test_setReport_passes_through :
    columns (exec .setReport (holding 0x01#8 0xF8#8 [])) =
    some ([], false, ⟨.notHandled, .passThrough⟩, false) := by decide +kernel

/-- X25 -/
theorem test_key_passes_through :
    columns (exec .key (holding 0x01#8 0xFE#8 [])) =
    some ([], false, ⟨.notHandled, .passThrough⟩, false) := by decide +kernel

/-- X26 -/
theorem test_touch_passes_through :
    columns (exec .touch (holding 0x01#8 0xFF#8 [])) =
    some ([], false, ⟨.notHandled, .passThrough⟩, false) := by decide +kernel

/-- X28 -/
theorem test_appCmd00_unrecognized :
    columns (exec (.appCmd00 0x01#8) (holding 0x01#8 0x01#8 [])) =
    some ([], false, ⟨.notHandled, .unrecognized⟩, false) := by decide +kernel

/-- R281 -/
theorem test_appCmd80_unrecognized :
    columns (exec (.appCmd80 0x80#8) (holding 0x01#8 0x80#8 [])) =
    some ([], false, ⟨.notHandled, .unrecognized⟩, false) := by decide +kernel

/-- R281 -/
theorem test_appCmdC0_unrecognized :
    columns (exec (.appCmdC0 0xC7#8) (holding 0x01#8 0xC7#8 [])) =
    some ([], false, ⟨.notHandled, .unrecognized⟩, false) := by decide +kernel

/-- X29 -/
theorem test_reservedC8_unrecognized :
    columns (exec (.reservedC8 0xC8#8) (holding 0x01#8 0xC8#8 [])) =
    some ([], false, ⟨.notHandled, .unrecognized⟩, false) := by decide +kernel

/-- R281 -/
theorem test_reservedD0_unrecognized :
    columns (exec (.reservedD0 0xD0#8) (holding 0x01#8 0xD0#8 [])) =
    some ([], false, ⟨.notHandled, .unrecognized⟩, false) := by decide +kernel

/-- R281 -/
theorem test_reservedE0_unrecognized :
    columns (exec (.reservedE0 0xEF#8) (holding 0x01#8 0xEF#8 [])) =
    some ([], false, ⟨.notHandled, .unrecognized⟩, false) := by decide +kernel

/-- X30 -/
theorem test_reservedF0_unrecognized :
    columns (exec (.reservedF0 0xF7#8) (holding 0x01#8 0xF7#8 [])) =
    some ([], false, ⟨.notHandled, .unrecognized⟩, false) := by decide +kernel

/-- X26 -/
theorem test_frameRequest_runs_the_arm :
    columns (exec (.frameRequest 0x01#8) (holding 0x01#8 0xFF#8 [])) =
    some ([], false, ⟨.notHandled, .passThrough⟩, false) := by decide +kernel

/-- X32: a report of cmd 0xF9 is not answered -/
theorem test_frameResponse_not_dispatched :
    columns (exec (.frameResponse 0xE1#8) (holding 0xE1#8 0xF9#8 [])) =
    some ([], false, ⟨.notHandled, .response⟩, false) := by decide +kernel

/-- 60_exceptions.md R348 -/
theorem test_fallback_frame :
    answer (exec (fallbackInstr cfg 0x01#8 64#32) ready) =
    some ⟨.ok, .none, .frame [0xAA#8, 0xCA#8, 0xAC#8, 0xBB#8, 0x18#8, 0x00#8, 0x00#8, 0x00#8, 0x81#8, 0x01#8, 0x01#8, 0x55#8, 0x6E#8, 0x73#8, 0x75#8, 0x70#8, 0x70#8, 0x6F#8, 0x72#8, 0x74#8, 0x65#8, 0x64#8, 0x20#8, 0x63#8, 0x6F#8, 0x6D#8, 0x6D#8, 0x61#8, 0x6E#8, 0x64#8, 0x9C#8, 0x41#8]⟩ := by decide +kernel

/-! ## Witnesses: for every statement with hypotheses, a state and operands that meet them, clause by clause -/

/-- The invariant in a state with this setup and no message. -/
theorem inv_of (s : State) (h1 : s.cfg.wf = true) (h2 : s.acc.length ≤ s.cfg.accCapacity)
    (h3 : s.msgValid = false ∧ s.msg = Message.cleared) (h4 : legalStatus s.status.last s.status.reason = true)
    (h5 : s.lastSkip.toNat ≤ s.cfg.accCapacity) : s.Inv :=
  ⟨h1, h2, by simp [msgOk, h3.1, h3.2], h4, h5⟩

theorem received_inv (b : Bytes) (h : b.length ≤ 64) : (received b).Inv :=
  inv_of _ (show cfg.wf = true by decide) h ⟨rfl, rfl⟩ rfl (Nat.zero_le _)

theorem witness_StepRunsDecodedRequest :
    (∃ inp rest, (ready.withFetchWord 8 0x07).inputs = inp :: rest) ∧ ready.inputs = [] := ⟨⟨_, _, rfl⟩, rfl⟩

theorem witness_EncodedInstructionDecodesBack :
    (Instr.illegal0A 0x0B#8).wf = true ∧ (Instr.reservedF0 0xF7#8).wf = true ∧ (Instr.frameResponse 0xFD#8).wf = true ∧
      (Instr.push pingBody).wf = true := by decide

theorem witness_FrameBytesDecodeToTheirRows :
    ((0x7D#8).extractLsb' 0 2 = 1#2 ∧ (0x7D#8).getLsbD 7 = false) ∧
      ((0x81#8).extractLsb' 0 2 = 1#2 ∧ (0x81#8).getLsbD 7 = true) ∧ (0x80#8).extractLsb' 0 2 ≠ 1#2 := by decide

theorem witness_ReservedBytesAnswerIllegalOp :
    10 ≤ ((0x0A#8 : Byte).extractLsb' 0 4).toNat ∧ (0x10#8 : Byte).extractLsb' 4 4 ≠ 0#4 := by decide

theorem witness_StepKeepsInvariant :
    (ready.withFetchWord 8 0x06).Inv ∧ ∃ t, step (ready.withFetchWord 8 0x06) = .next t :=
  ⟨inv_of _ (by decide) (by decide) ⟨rfl, rfl⟩ rfl (by decide), next_of (by decide +kernel)⟩

theorem witness_ConfigurationNeverChanges : ∃ t, step (ready.withFetchWord 8 0x00) = .next t := next_of (by decide +kernel)

theorem witness_OnlyInitWritesMagic :
    (∃ t, exec (.init 0x12345678#32) ready = .next t) ∧
      (∃ t, exec (.push pingBody) ready = .next t) ∧ ∀ m, Instr.push pingBody ≠ .init m :=
  ⟨next_of (by decide +kernel), next_of (by decide +kernel), by simp⟩

theorem witness_OnlyAccumulatorOpsChangeAcc :
    (∃ t, exec .appList (holding 0x01#8 0xF9#8 []) = .next t) ∧ (∀ m, Instr.appList ≠ .init m) ∧
      (∀ d, Instr.appList ≠ .push d) ∧ Instr.appList ≠ .tryDecode :=
  ⟨next_of (by decide +kernel), by simp, by simp, by simp⟩

/-- Each of the writers, a refused PUSH, and an instruction that leaves `last_skip` alone. -/
theorem witness_LastSkipCountsTheDiscard :
    (received ping).Inv ∧ (∃ t, exec (.init 1#32) (received ping) = .next t) ∧
      (∃ t, exec (.decodeAt ping 1#32) (received ping) = .next t) ∧
      (∃ t, exec (.push ping) (received ping) = .next t ∧ decide (t.status.last = .ok) = true) ∧
      (∃ t, exec (.push (List.replicate 49 0x00#8)) (received ping) = .next t ∧ decide (t.status.last ≠ .ok) = true) ∧
      (∃ t, exec .tryDecode (received ping) = .next t) ∧ (∃ t, exec .touch (received ping) = .next t) :=
  ⟨received_inv _ (by decide), next_of (by decide +kernel), next_of (by decide +kernel),
    next_with _ (by decide +kernel), next_with _ (by decide +kernel), next_of (by decide +kernel), next_of (by decide +kernel)⟩

theorem witness_MessageRegisterLife :
    (∃ t, exec (.rdreg 0x09#8) (holding 0x01#8 0xF9#8 []) = .next t) ∧ dispatches (.rdreg 0x09#8) = false ∧
      (∃ t, exec .dispatch (holding 0x01#8 0xF9#8 []).markReplied = .next t) ∧
      (holding 0x01#8 0xF9#8 []).markReplied.msg.hasBeenReplied = true :=
  ⟨next_of (by decide +kernel), rfl, next_of (by decide +kernel), rfl⟩

theorem witness_ExitRequestIsSticky :
    (∃ t, exec (.init 1#32) { ready with exitReq := true } = .next t ∧ decide (t.exitReq = false) = true) ∧
      (∃ t, exec .dispatch (holding 0x01#8 0xFB#8 []) = .next t ∧ decide (t.exitReq = true) = true) :=
  ⟨next_with _ (by decide +kernel), next_with _ (by decide +kernel)⟩

theorem witness_OnlyDispatchCallsAgents :
    (∃ t, exec .dispatch (holding 0x01#8 0xF9#8 []) = .next t) ∧
      (∃ t, exec (.push []) ready = .next t) ∧ dispatches (.push []) = false :=
  ⟨next_of (by decide +kernel), next_of (by decide +kernel), rfl⟩

theorem witness_StatusesOfEachOperation :
    (∃ t, exec .tryDecode (received ping) = .next t) ∧ (∃ t, exec (.rdreg 0xFF#8) ready = .next t) :=
  ⟨next_of (by decide +kernel), next_of (by decide +kernel)⟩

/-- `ready` with a registry of 256 apps, one more than the duty allows. -/
def crowded : State := { ready with env := { env with apps := List.replicate 256 ⟨cam, cam, cam, []⟩ } }

/-- `ready` with a registry of 255 apps, one of which has a 0x00 in its description. -/
def dirty : State :=
  { ready with env := { env with apps := ⟨cam, cam, [0x00#8], []⟩ :: List.replicate 254 ⟨cam, cam, cam, []⟩ } }

/-- EXIT_APP with a sink that claims one byte more than the 12 of its reply. -/
def boastful : State := { holding 0x01#8 0xFB#8 [] with env := { env with sink := .count 13 } }

/-- A fault of each kind. -/
theorem witness_FaultsOnlyOnBrokenDuties :
    exec .appList crowded = .fault .tooManyApps ∧ exec .appList dirty = .fault .nulInString ∧
      exec .dispatch boastful = .fault .sinkOverrun := by
  have h : crowded.env.apps.length > 255 := by decide +kernel
  have h1 : ¬ dirty.env.apps.length > 255 := by decide +kernel
  have h2 : ¬ dirty.env.apps.all appClean = true := by decide +kernel
  refine ⟨?_, ?_, ?_⟩
  · simp only [exec, execAppList, queryApps, if_pos h]
  · simp only [exec, execAppList, queryApps, if_neg h1, if_neg h2]
  · rfl

theorem witness_BrokenDutiesFault :
    (crowded.env.apps.length > 255 ∧ noNul crowded.env.currentApp = true) ∧
      (dirty.env.apps.length ≤ 255 ∧ dirty.env.apps.all appClean = false) ∧ noNul (0x00#8 :: cam) = false ∧
      (ready.cfg.wf = true ∧ ready.env.exitResult = .ok ∧ ({ env with sink := .count 13 } : Env).sink = .count 13) := by
  decide +kernel

/-- An exact fill of the capacity, and one byte more. -/
theorem witness_PushAppendsAllOrNothing :
    (received ping).acc.length + (List.replicate 48 0x00#8 : Bytes).length ≤ (received ping).cfg.accCapacity ∧
      (received ping).acc.length + (List.replicate 49 0x00#8 : Bytes).length > (received ping).cfg.accCapacity := by
  decide +kernel

theorem witness_TryDecodeConsumesFront :
    decodeAt (received ping).acc (received ping).cfgMagic = .found ⟨0x01#8, 0x01#8, pingBody, false⟩ 16 ∧
      decodeAt (received (List.replicate 12 0x00#8)).acc ready.cfgMagic = .notFound 9 .noMagic ∧
      decodeAt (received (ping.take 15)).acc ready.cfgMagic = .incomplete := by decide +kernel

/-- An accepted and a refused PUSH, a TRY_DECODE and an INIT, from a state with the invariant. -/
theorem witness_AccumulatorBytesMoveAsStated :
    (received ping).Inv ∧ 0 < (received ping).acc.length ∧ (∃ t, exec (.push pingBody) (received ping) = .next t) ∧
      (∃ t, exec (.push (List.replicate 49 0x00#8)) (received ping) = .next t) ∧
      (∃ t, exec .tryDecode (received ping) = .next t) ∧ (∃ t, exec (.init 1#32) (received ping) = .next t) :=
  ⟨received_inv _ (by decide), by decide, next_of (by decide +kernel), next_of (by decide +kernel), next_of (by decide +kernel),
    next_of (by decide +kernel)⟩

theorem witness_TryDecodeMakesProgress : ∃ t, exec .tryDecode (received ping) = .next t := next_of (by decide +kernel)

/-- A frame and then twelve zeros: two operations come before INCOMPLETE. -/
theorem witness_DrainEndsInIncomplete :
    (afterTryDecodes 2 (received (ping ++ List.replicate 12 0x00#8))).map (fun t => (t.acc.length, t.status)) =
      some (3, ⟨.notFound, .noMagic⟩) := by decide +kernel

theorem witness_RdregReadsTheRegisterMap :
    (0x0A ≤ (0x0A#8 : Byte).toNat ∧ 0x0A ≤ (0xFF#8 : Byte).toNat) ∧ ready.Inv ∧ ready.msgValid = false ∧
      (0x09#8 : Byte) ∈ [0x07#8, 0x08#8, 0x09#8] := ⟨by decide, received_inv [] (by decide), rfl, by decide⟩

/-- The first and the last position of the smallest frame that the statement covers. -/
theorem witness_SingleBitFlipIsDiscarded :
    (([] : Bytes).length + 4 < 2 ^ 32 ∧ 8 ≤ 8 ∧ 8 < ([] : Bytes).length + 12 ∧ 0 < 8) ∧
      (8 ≤ 11 ∧ 11 < ([] : Bytes).length + 12 ∧ 7 < 8) := by decide

theorem witness_EncodeAnswersTheFrame :
    pingBody.length + 12 ≤ (16#32 : Word).toNat ∧ pingBody.length + 13 ≤ (17#32 : Word).toNat := by decide

/-- ENCODE and ENC_RESP_ERR in each mode, and the three frames without an error code. -/
theorem witness_ErrorFrameLengthFollowsTheMode :
    pingBody.length + 13 ≤ (17#32 : Word).toNat ∧ pingBody.length + 12 ≤ (17#32 : Word).toNat ∧
      ready.cfg.errLenMode = .exact ∧
      ({ ready with cfg := { cfg with errLenMode := .legacy } } : State).cfg.errLenMode = .legacy ∧
      Instr.encRespErr 0xFA#8 0x01#8 pingBody 17#32 ∈
        [.encode 0xFA#8 0x80#8 pingBody (some 0x01#8) 1#8 17#32, .encRespErr 0xFA#8 0x01#8 pingBody 17#32] ∧
      Instr.encReport 0xFA#8 pingBody 17#32 ∈
        [.encode 0xFA#8 0x80#8 pingBody none 1#8 17#32, .encRespOk 0xFA#8 pingBody 17#32,
          .encReport 0xFA#8 pingBody 17#32] := by decide

theorem witness_EncodeRefusesInOrder :
    (0x05#8 : Byte) ≠ 1#8 ∧ (15#32 : Word).toNat < pingBody.length + 12 + (if (none : Option Byte) = none then 0 else 1) ∧
      (16#32 : Word).toNat < pingBody.length + 12 + (if some (0x07#8 : Byte) = none then 0 else 1) ∧
      ∃ t, exec (.encode 1#8 0#8 pingBody none 0x05#8 3#32) ready = .next t :=
  ⟨by decide, by decide, by decide, next_of (by decide +kernel)⟩

theorem witness_ConvenienceEncodingsComplete :
    pingBody.length + 12 ≤ (16#32 : Word).toNat ∧ pingBody.length + 13 ≤ (17#32 : Word).toNat ∧
      (15#32 : Word).toNat < pingBody.length + 12 ∧ (16#32 : Word).toNat < pingBody.length + 13 := by decide

/-- The default magic, lowest byte first. -/
def sync : Bytes := [0xAA#8, 0xCA#8, 0xAC#8, 0xBB#8]

theorem magicAt_of (buf : Bytes) (i : Nat) (h : findMagic buf 0xBBACCAAA#32 = some i) : magicAt buf 0xBBACCAAA#32 i :=
  (findMagic_eq_some _ _ _).1 h

/-- A buffer for each of the eight ways the decode function can go. -/
theorem witness_DecodeAtTakesItsStepsInOrder :
    (ping.take 11).length < 12 ∧
      (12 ≤ (List.replicate 12 0x00#8 : Bytes).length ∧
        ∀ k, k + 4 ≤ (List.replicate 12 0x00#8 : Bytes).length →
          slice (List.replicate 12 0x00#8) k (k + 4) ≠ le32 0xBBACCAAA#32) ∧
      (magicAt (List.replicate 8 0x00#8 ++ sync) 0xBBACCAAA#32 8 ∧
        (List.replicate 8 0x00#8 ++ sync).length < 8 + 12) ∧
      (magicAt (ping.take 15) 0xBBACCAAA#32 0 ∧ 0 + 12 ≤ (ping.take 15).length ∧
        (ping.take 15).length < 0 + 8 + rdLe32 (ping.take 15) 4) ∧
      (magicAt (sync ++ [0x03#8, 0#8, 0#8, 0#8, 0x01#8, 0#8, 0#8, 0#8]) 0xBBACCAAA#32 0 ∧
        rdLe32 (sync ++ [0x03#8, 0#8, 0#8, 0#8, 0x01#8, 0#8, 0#8, 0#8]) 4 = 3) ∧
      (magicAt (ping.set 11 0x68#8) 0xBBACCAAA#32 0 ∧ rdLe32 (ping.set 11 0x68#8) 4 = 8 ∧
        (crc16 (slice (ping.set 11 0x68#8) 0 14)).toNat ≠ rdLe16 (ping.set 11 0x68#8) 14) ∧
      (magicAt (sync ++ [0x04#8, 0#8, 0#8, 0#8, 0x02#8, 0x05#8, 0xC9#8, 0xC6#8]) 0xBBACCAAA#32 0 ∧
        (crc16 (slice (sync ++ [0x04#8, 0#8, 0#8, 0#8, 0x02#8, 0x05#8, 0xC9#8, 0xC6#8]) 0 10)).toNat =
          rdLe16 (sync ++ [0x04#8, 0#8, 0#8, 0#8, 0x02#8, 0x05#8, 0xC9#8, 0xC6#8]) 10 ∧
        (0x02#8 : Byte).extractLsb' 0 2 ≠ 1#2) ∧
      (magicAt ping 0xBBACCAAA#32 0 ∧ rdLe32 ping 4 = 8 ∧ 0 + 8 + 8 ≤ ping.length ∧
        (crc16 (slice ping 0 14)).toNat = rdLe16 ping 14 ∧ (byteAt ping 8).extractLsb' 0 2 = 1#2) := by
  refine ⟨by decide +kernel, ⟨by decide +kernel, ?_⟩, ⟨magicAt_of _ _ (by decide +kernel), by decide +kernel⟩,
    ⟨magicAt_of _ _ (by decide +kernel), by decide +kernel, by decide +kernel⟩,
    ⟨magicAt_of _ _ (by decide +kernel), by decide +kernel⟩,
    ⟨magicAt_of _ _ (by decide +kernel), by decide +kernel, by decide +kernel⟩,
    ⟨magicAt_of _ _ (by decide +kernel), by decide +kernel, by decide +kernel⟩,
    ⟨magicAt_of _ _ (by decide +kernel), by decide +kernel⟩⟩
  exact (findMagic_eq_none _ _).1 (by decide +kernel)

theorem witness_DecodeAtAnswersTheOutcome :
    decodeAt ping 0xBBACCAAA#32 = .found ⟨0x01#8, 0x01#8, pingBody, false⟩ 16 ∧
      decodeAt ping 0x12345678#32 = .notFound 13 .noMagic ∧ decodeAt [] 0xBBACCAAA#32 = .incomplete := by decide +kernel

theorem witness_EncodeDecodeRoundTrip :
    (0xFC#8 : Byte).extractLsb' 0 2 = 0#2 ∧ pingBody.length + 12 ≤ (16#32 : Word).toNat ∧ ready.cfg.errLenMode = .exact ∧
      pingBody.length + 13 ≤ (17#32 : Word).toNat := by decide

theorem witness_FrameBehindNoiseIsDelivered :
    (received ([0xAA#8, 0xCA#8, 0xAC#8] ++ ping ++ [0x07#8])).Inv ∧ (0x01#8 : Byte).extractLsb' 0 2 = 1#2 ∧
      (received ([0xAA#8, 0xCA#8, 0xAC#8] ++ ping ++ [0x07#8])).acc =
        [0xAA#8, 0xCA#8, 0xAC#8] ++ wireFrame ready.cfgMagic (pingBody.length + 4) 0x01#8 0x01#8 pingBody ++ [0x07#8] ∧
      magicAt (received ([0xAA#8, 0xCA#8, 0xAC#8] ++ ping ++ [0x07#8])).acc ready.cfgMagic 3 :=
  ⟨received_inv _ (by decide), by decide, by decide +kernel, magicAt_of _ _ (by decide +kernel)⟩

/-- A frame that fills the capacity, split after its first byte and before its last. -/
theorem witness_SplitFrameIsDeliveredOnce :
    ready.Inv ∧ ready.acc = [] ∧ (0x01#8 : Byte).extractLsb' 0 2 = 1#2 ∧
      (List.replicate 52 0x00#8 : Bytes).length + 12 ≤ ready.cfg.accCapacity ∧
      (0 < 1 ∧ 1 < (List.replicate 52 0x00#8 : Bytes).length + 12) ∧
      (0 < 63 ∧ 63 < (List.replicate 52 0x00#8 : Bytes).length + 12) :=
  ⟨received_inv [] (by decide), rfl, by decide +kernel⟩

theorem witness_LegacyErrorFrameIsMisread : ([] : Bytes).length + 4 < 2 ^ 32 ∧ pingBody.length + 4 < 2 ^ 32 := by decide

/-- A length of 57 after a magic at 0 needs 65 bytes, one more than the capacity; and the same with a full accumulator. -/
theorem witness_StallEndsOnlyByInit :
    ((received (sync ++ [57#8, 0#8, 0#8, 0#8])).Inv ∧ (received (sync ++ [57#8, 0#8, 0#8, 0#8])).stalled) ∧
      (∃ t, exec .dispatch (received (sync ++ [57#8, 0#8, 0#8, 0#8])) = .next t) ∧ (∀ m, Instr.dispatch ≠ .init m) ∧
      ((received (sync ++ [57#8, 0#8, 0#8, 0#8] ++ List.replicate 56 0x00#8)).Inv ∧
        (received (sync ++ [57#8, 0#8, 0#8, 0#8] ++ List.replicate 56 0x00#8)).stalled ∧
        (received (sync ++ [57#8, 0#8, 0#8, 0#8] ++ List.replicate 56 0x00#8)).acc.length = cfg.accCapacity) ∧
      pingBody ≠ [] :=
  ⟨⟨received_inv _ (by decide), 0, magicAt_of _ _ (by decide +kernel), by decide +kernel⟩, next_of (by decide +kernel),
    by simp, ⟨received_inv _ (by decide), ⟨0, magicAt_of _ _ (by decide +kernel), by decide +kernel⟩, by decide +kernel⟩,
    by decide⟩

theorem witness_StatusRegisterFields :
    (∃ t, exec (.push []) ready = .next t) ∧ ∀ x, Instr.push [] ≠ .rdreg x := ⟨next_of (by decide +kernel), by simp⟩

theorem witness_ResponsesAreNotDispatched :
    (holding 0xE1#8 0xF9#8 []).msgValid = true ∧ (holding 0xE1#8 0xF9#8 []).msg.flags.getLsbD 7 = true := by decide

/-- No message; a response; a request; its cmd 0xF9, and 0xF7, the last that is not built in. The other cmd clauses have the form
of the first. -/
theorem witness_DispatchSelectsTheArm :
    ready.msgValid = false ∧
      ((holding 0x81#8 0xF9#8 []).msgValid = true ∧ (holding 0x81#8 0xF9#8 []).msg.flags.getLsbD 7 = true) ∧
      ((holding 0x7D#8 0xF9#8 []).msgValid = true ∧ (holding 0x7D#8 0xF9#8 []).msg.flags.getLsbD 7 = false) ∧
      decode (.cmd (holding 0x7D#8 0xF9#8 []).msg.cmd) = .ok .appList ∧ (holding 0x7D#8 0xF9#8 []).msg.cmd = 0xF9#8 ∧
      (holding 0x7D#8 0xF7#8 []).msg.cmd.toNat < 0xF8 ∧
      decode (.cmd (holding 0x7D#8 0xF7#8 []).msg.cmd) = .ok (.reservedF0 0xF7#8) := by decide

theorem witness_UnrecognizedArmsComplete :
    Instr.appCmd00 0x00#8 ∈ [Instr.appCmd00 0x00#8, .appCmd80 0x00#8, .appCmdC0 0x00#8, .reservedC8 0x00#8,
      .reservedD0 0x00#8, .reservedE0 0x00#8, .reservedF0 0x00#8] := by decide

theorem witness_DispatchLeavesOtherIdsToTheHost :
    (holding 0x01#8 0xFE#8 []).msgValid = true ∧ (holding 0x01#8 0xFE#8 []).msg.flags.getLsbD 7 = false ∧
      (holding 0x01#8 0xFE#8 []).msg.cmd ∈ [0xF8#8, 0xFE#8, 0xFF#8] ∧ (holding 0x01#8 0xF7#8 []).msg.cmd.toNat < 0xF8 := by
  decide

/-- Setup facts that the reply statements share. -/
theorem setup_ok : cfg.wf = true ∧ env.appsOk ∧ env.currentOk ∧ ∀ f, env.sinkOk f :=
  ⟨by decide, ⟨by decide, by decide⟩, by unfold Env.currentOk; decide, fun _ => trivial⟩

/-- The reply of 22 bytes fits REPLY_CAP 22 exactly, and does not fit 21. -/
theorem witness_AppListReplies :
    ({ cfg with replyCap := 22 } : Config).wf = true ∧ env.appsOk ∧
      (BitVec.ofNat 8 env.apps.length :: env.apps.flatMap (fun a => a.id ++ [0x00#8])).length + 12 ≤ 22 ∧
      21 < (BitVec.ofNat 8 env.apps.length :: env.apps.flatMap (fun a => a.id ++ [0x00#8])).length + 12 ∧
      env.sinkOk (okReply ready (BitVec.ofNat 8 env.apps.length :: env.apps.flatMap (fun a => a.id ++ [0x00#8]))) :=
  ⟨by decide, setup_ok.2.1, by decide, by decide, setup_ok.2.2.2 _⟩

/-- The greatest index in range, with two strings. -/
theorem witness_StartAppByIndexReplies :
    splitNul [0x00#8, 0x78#8, 0x00#8] = some [[], [0x78#8]] ∧ ([[], [0x78#8]] : List Bytes).length ≤ 2 ∧
      (0x01#8 : Byte) ≠ 0xFF#8 ∧ (0x01#8 : Byte).toNat < env.apps.length ∧ cfg.wf = true ∧ env.appsOk ∧
      env.sinkOk (okReply ready []) :=
  ⟨by decide, by decide, by decide, by decide, setup_ok.1, setup_ok.2.1, setup_ok.2.2.2 _⟩

theorem witness_StartAppByIdReplies :
    splitNul (face ++ [0x00#8, 0x00#8]) = some [face, []] ∧ ([[]] : List Bytes).length ≤ 1 ∧ face ≠ [] ∧ cfg.wf = true ∧
      env.sinkOk (okReply ready []) := ⟨by decide, by decide, by decide, setup_ok.1, setup_ok.2.2.2 _⟩

/-- Trailing bytes with no NUL; three strings; index 0xFF with no string and with an empty one; index 2 of two apps. -/
theorem witness_StartAppErrorReplies :
    cfg.wf = true ∧ env.sinkOk (errReply ready cfg.errcodeArgs .startArgs) ∧ splitNul cam = none ∧
      splitNul [0x00#8, 0x00#8, 0x00#8] = some [[], [], []] ∧ 2 < ([[], [], []] : List Bytes).length ∧
      (splitNul [] = some [] ∧ ([] : List Bytes).getD 0 [] = []) ∧
      (splitNul [0x00#8] = some [[]] ∧ ([[]] : List Bytes).getD 0 [] = []) ∧
      env.sinkOk (errReply ready cfg.errcodeNotFound .startNotFound) ∧ (0x02#8 : Byte) ≠ 0xFF#8 ∧
      env.apps.length ≤ (0x02#8 : Byte).toNat ∧ env.appsOk :=
  ⟨setup_ok.1, setup_ok.2.2.2 _, by decide, by decide, by decide, by decide, by decide, setup_ok.2.2.2 _, by decide,
    by decide, setup_ok.2.1⟩

theorem witness_ExitAppReplies :
    cfg.wf = true ∧ (env.exitResult = .ok ∧ env.sinkOk (okReply ready [])) ∧
      (({ env with exitResult := .err 0x07#8 } : Env).exitResult = .err 0x07#8 ∧
        ({ env with exitResult := .err 0x07#8 } : Env).sinkOk (errReply ready 0x07#8 .exitFail)) :=
  ⟨setup_ok.1, ⟨rfl, setup_ok.2.2.2 _⟩, rfl, trivial⟩

/-- face is the second app; "zz" is none of them; the reply has 18 bytes. -/
theorem witness_CurAppInfoReplies :
    ({ cfg with replyCap := 18 } : Config).wf = true ∧ env.appsOk ∧ env.currentOk ∧ env.currentApp.length + 14 ≤ 18 ∧
      17 < env.currentApp.length + 14 ∧
      (∃ a, env.apps[1]? = some a ∧ a.id = env.currentApp ∧
        ∀ (j : Nat) (b : AppRecord), j < 1 → env.apps[j]? = some b → b.id ≠ env.currentApp) ∧
      (∀ f, env.sinkOk f) ∧ ∀ a ∈ env.apps, a.id ≠ [0x7A#8, 0x7A#8] := by
  refine ⟨by decide, setup_ok.2.1, setup_ok.2.2.1, by decide, by decide, ⟨_, rfl, rfl, ?_⟩, setup_ok.2.2.2, by decide⟩
  intro j b hj hb
  obtain rfl : j = 0 := by omega
  cases hb
  decide

/-- By the index 1, and by the id cam, which is the first app; the longer of the replies has 27 bytes. -/
theorem witness_AppInfoReplies :
    (splitNul [] = some [] ∧ ([] : List Bytes).length ≤ 1 ∧ (∃ a, env.apps[1]? = some a) ∧ (0x01#8 : Byte) ≠ 0xFF#8 ∧
        (0x01#8 : Byte).toNat = 1) ∧
      (splitNul (cam ++ [0x00#8]) = some [cam] ∧ (∃ a, env.apps[0]? = some a ∧ a.id = cam ∧
        a.id.length + a.name.length + a.description.length + 16 ≤ 27) ∧ cam ≠ [] ∧ ¬ ∃ j : Nat, j < 0) ∧
      ({ cfg with replyCap := 27 } : Config).wf = true ∧ env.appsOk ∧ ∀ f, env.sinkOk f :=
  ⟨⟨by decide, by decide, ⟨_, rfl⟩, by decide, by decide⟩,
    ⟨by decide, ⟨_, rfl, rfl, by decide⟩, by decide, by simp⟩, by decide, setup_ok.2.1, setup_ok.2.2.2⟩

/-- Bodies for each error: no NUL, two strings; index 2 of two apps, no id, an empty id, an id of no app. -/
theorem witness_AppInfoErrorReplies :
    cfg.wf = true ∧ env.sinkOk (errReply ready cfg.errcodeArgs .infoArgs) ∧ splitNul cam = none ∧
      (splitNul [0x61#8, 0x00#8, 0x00#8] = some [[0x61#8], []] ∧ 1 < ([[0x61#8], []] : List Bytes).length) ∧
      env.appsOk ∧ ((0x02#8 : Byte) ≠ 0xFF#8 ∧ env.apps.length ≤ (0x02#8 : Byte).toNat) ∧
      (splitNul [] = some [] ∧ ([] : List Bytes).getD 0 [] = []) ∧
      (splitNul [0x7A#8, 0x00#8] = some [[0x7A#8]] ∧ ∀ a ∈ env.apps, a.id ≠ ([[0x7A#8]] : List Bytes).getD 0 []) :=
  ⟨setup_ok.1, setup_ok.2.2.2 _, by decide, by decide, setup_ok.2.1, by decide, by decide, by decide⟩

/-- The reply of cam, by index 0 and by id, has 27 bytes, one more than REPLY_CAP 26. -/
theorem witness_OversizeAppInfoIsNotSent :
    (splitNul [] = some [] ∧ ([] : List Bytes).length ≤ 1 ∧ (0x00#8 : Byte) ≠ 0xFF#8 ∧ (0x00#8 : Byte).toNat = 0) ∧
      (splitNul (cam ++ [0x00#8]) = some [cam] ∧ cam ≠ [] ∧ ¬ ∃ j : Nat, j < 0) ∧ env.appsOk ∧
      ∃ a, env.apps[0]? = some a ∧ a.id = cam ∧ 26 < a.id.length + a.name.length + a.description.length + 16 :=
  ⟨by decide, ⟨by decide, by decide, by simp⟩, setup_ok.2.1, _, rfl, rfl, by decide⟩

theorem witness_StartAndExitRepliesFit :
    cfg.wf = true ∧ (∃ t, exec .startApp (holding 0x01#8 0xFA#8 []) = .next t) ∧
      (∃ t, exec .exitApp (holding 0x01#8 0xFB#8 []) = .next t) :=
  ⟨setup_ok.1, next_of (by decide +kernel), next_of (by decide +kernel)⟩

/-- Ids at both ends of each clause, in a setup whose replies fit. -/
theorem witness_DispatcherIsComplete :
    cfg.wf = true ∧ env.appsOk ∧ env.currentOk ∧ env.sink = .all ∧ ready.repliesFit ∧
      ((holding 0x01#8 0xF9#8 []).msgValid = true ∧ (holding 0x01#8 0xF9#8 []).msg.flags.getLsbD 7 = false) ∧
      (0xF9 ≤ (0xF9#8 : Byte).toNat ∧ (0xFD#8 : Byte).toNat ≤ 0xFD) ∧
      ¬ (0xF9 ≤ (0xF8#8 : Byte).toNat ∧ (0xF8#8 : Byte).toNat ≤ 0xFD) ∧
      ¬ (0xF9 ≤ (0xFE#8 : Byte).toNat ∧ (0xFE#8 : Byte).toNat ≤ 0xFD) :=
  ⟨setup_ok.1, setup_ok.2.1, setup_ok.2.2.1, rfl, ⟨by decide, by decide, by decide⟩, by decide, by decide, by decide,
    by decide⟩

theorem witness_SecondDispatchRepeatsTheReply :
    (holding 0x01#8 0xF9#8 []).msgValid = true ∧ ∃ t, exec .dispatch (holding 0x01#8 0xF9#8 []) = .next t :=
  ⟨rfl, next_of (by decide +kernel)⟩

end Sys2Proof.Tests
end

section
/-! The family of 00_scope.md. The step keeps the invariant: each shared ending of an operation keeps it, so each host
operation does; the invariant at reset; the replies of START_APP and EXIT_APP; ENCODE's frame. -/

namespace Sys2Proof.Machine

/-! ### The invariant after the shared endings of operations -/

/-- An operation that writes STATUS and the response alone keeps the invariant when the status is one of R321's table. -/
theorem StatusOnly.inv {s t : State} (h : StatusOnly s t) (hs : s.Inv)
    (hl : legalStatus t.status.last t.status.reason = true) : t.Inv := by
  obtain ⟨st, r, res, rfl⟩ := h
  exact { hs with statusLegal := hl }

theorem respond_inv {s t : State} {st : Status} {r : Reason} {res : Result} (hs : s.Inv)
    (hl : legalStatus st r = true) (h : respond s st r res = .next t) : t.Inv := by
  refine (respond_next h).inv hs ?_
  cases h
  exact hl

/-- `last_skip` at 0 keeps the invariant, whatever it was. -/
theorem State.Inv.clearSkip {s : State} (hs : s.Inv) : ({ s with lastSkip := 0#32 } : State).Inv :=
  { hs with skipFits := Nat.zero_le _ }

/-- The invariant is kept when the message register is cleared and the accumulator and `last_skip` stay within the
capacity. -/
theorem State.Inv.clearMsg {s : State} (hs : s.Inv) {b : Bytes} {k : Nat} (hb : b.length ≤ s.cfg.accCapacity)
    (hk : k ≤ s.cfg.accCapacity) :
    ({ s with acc := b, msgValid := false, msg := Message.cleared, lastSkip := BitVec.ofNat 32 k } : State).Inv where
  cfgWf := hs.cfgWf
  accFits := hb
  msgOk := rfl
  statusLegal := hs.statusLegal
  skipFits := (Nat.mod_le k _).trans hk

/-! ### The host operations keep the invariant -/

theorem execInit_inv {m : Word} {s t : State} (hs : s.Inv) (h : execInit m s = .next t) : t.Inv := by
  refine respond_inv ?_ rfl h
  exact { cfgWf := hs.cfgWf, accFits := Nat.zero_le _, msgOk := rfl, statusLegal := hs.statusLegal,
          skipFits := Nat.zero_le _ }

/-- The encoder refuses with reasons that R321 lists under ARGS_ERROR. -/
theorem legalStatus_of_encodeFrame_error {mode : ErrLenMode} {magic : Word} {cmd flags : Byte} {body : Bytes}
    {err : Option Byte} {version : Byte} {cap : Nat} {r : Reason}
    (h : encodeFrame mode magic cmd flags body err version cap = .error r) : legalStatus .argsError r = true := by
  obtain ⟨rfl, -⟩ | ⟨rfl, -⟩ | ⟨rfl, -⟩ := encodeFrame_error h
  · rfl
  · rfl
  · rfl

theorem finishEncode_inv {cmd flags : Byte} {body : Bytes} {err : Option Byte} {version : Byte} {cap : Nat}
    {s t : State} (hs : s.Inv) (h : finishEncode s (s.encodeWith cmd flags body err version cap) = .next t) :
    t.Inv := by
  cases he : s.encodeWith cmd flags body err version cap with
  | ok f =>
    rw [he] at h
    exact respond_inv hs rfl h
  | error r =>
    rw [he] at h
    exact respond_inv hs (legalStatus_of_encodeFrame_error he) h

theorem execDecodeAt_inv {buffer : Bytes} {magic : Word} {s t : State} (hs : s.Inv)
    (h : execDecodeAt buffer magic s = .next t) : t.Inv := by
  have hd := decodeAt_ok buffer magic
  unfold execDecodeAt at h
  cases hb : decodeAt buffer magic with
  | found m c =>
    rw [hb] at h
    exact respond_inv hs.clearSkip rfl h
  | notFound k why =>
    rw [hb] at h hd
    exact respond_inv hs.clearSkip hd.2.2 h
  | incomplete =>
    rw [hb] at h
    exact respond_inv hs.clearSkip rfl h

theorem execPush_inv {data : Bytes} {s t : State} (hs : s.Inv) (h : execPush data s = .next t) : t.Inv := by
  obtain ⟨u, hu, ⟨hfit, hst, hl⟩ | ⟨-, hst, hl⟩⟩ := execPush_next data s
  · cases hu.symm.trans h
    refine hst.inv { hs.clearSkip with accFits := ?_ } (by rw [hl]; rfl)
    simpa using hfit
  · cases hu.symm.trans h
    exact hst.inv hs (by rw [hl]; rfl)

/-- The deframer's bounds (`decodeAt_ok`) are what TRY_DECODE needs: a delivered message has version 1 and came from inside
the accumulator, and what is consumed or skipped is no longer than the accumulator. -/
theorem execTryDecode_inv {s t : State} (hs : s.Inv) (h : execTryDecode s = .next t) : t.Inv := by
  have hacc := hs.accFits
  have hdec := decodeAt_ok s.acc s.cfgMagic
  have hdrop (c : Nat) : (s.acc.drop c).length ≤ s.cfg.accCapacity := by simp; omega
  obtain ⟨u, hu, ⟨m, c, hd, hl, hst⟩ | ⟨k, why, hd, hl, hst⟩ | ⟨-, hl, hst⟩⟩ := execTryDecode_next s
  · cases hu.symm.trans h
    rw [hd] at hdec
    obtain ⟨-, hc, -, hversion, hbody⟩ := hdec
    refine hst.inv ?_ (by rw [hl]; rfl)
    exact { cfgWf := hs.cfgWf, accFits := hdrop c, msgOk := ⟨hversion, by dsimp only; omega⟩,
            statusLegal := hs.statusLegal, skipFits := (Nat.mod_le c _).trans (hc.trans hacc) }
  · cases hu.symm.trans h
    rw [hd] at hdec
    obtain ⟨-, hk, hwhy⟩ := hdec
    exact hst.inv (hs.clearMsg (hdrop k) (hk.trans hacc)) (by rw [hl]; exact hwhy)
  · cases hu.symm.trans h
    exact hst.inv (hs.clearMsg hacc (Nat.zero_le _)) (by rw [hl]; rfl)

theorem execRdreg_inv {index : Byte} {s t : State} (hs : s.Inv) (h : execRdreg index s = .next t) : t.Inv := by
  obtain ⟨u, r, hu, rfl⟩ := execRdreg_next index s
  cases hu.symm.trans h
  exact { hs with }

theorem illegalOp_inv {s t : State} (hs : s.Inv) (h : illegalOp s = .next t) : t.Inv := respond_inv hs rfl h

/-! ### DISPATCH keeps the invariant -/

/-- DISPATCH's statuses are of R321's table. -/
theorem legalStatus_of_dispatchStatus {st : Status} {r : Reason} (h : dispatchStatus st r = true) :
    legalStatus st r = true := by
  unfold dispatchStatus at h
  split at h
  case h_10 => cases h
  all_goals rfl

/-- What the dispatcher does to a message keeps the invariant: it may set `has_been_replied`, of which `msgOk` says nothing
while `msg_valid` is 1. -/
theorem DispatchEffect.inv {may : Prop} {s t : State} (h : DispatchEffect may s t) (hv : s.msgValid = true)
    (hs : s.Inv) : t.Inv := by
  obtain ⟨made, sent, ex, st, r, res, -, -, hl, rfl⟩ := h
  have hmsg := hs.msgOk
  simp only [msgOk, hv, if_true] at hmsg
  refine { hs with msgOk := ?_, statusLegal := legalStatus_of_dispatchStatus hl }
  simp only [msgOk, hv, if_true]
  exact hmsg

/-- Without a message DISPATCH writes STATUS alone, so a cleared message register stays cleared. -/
theorem execDispatch_inv {s t : State} (hs : s.Inv) (h : execDispatch s = .next t) : t.Inv := by
  by_cases hv : s.msgValid = true
  · have hd := execDispatch_ok s
    rw [h] at hd
    exact DispatchEffect.inv hd hv hs
  · rw [execDispatch, if_pos (by simpa using hv)] at h
    exact respond_inv hs rfl h

/-! ### Every step keeps the invariant -/

/-- The one instruction of the dispatcher that a host request decodes to is DISPATCH: the arms and the frame kinds are
reached through it alone (log entry 11). -/
theorem decodeHost_dispatches (r : Request) (h : dispatches (decodeHost r) = true) : decodeHost r = .dispatch := by
  have hreserved : ∀ b : Byte, dispatches (decodeReservedOp b) = false := by decide +kernel
  unfold decodeHost at h ⊢
  split at h
  case h_9 => rfl
  case h_11 => rw [hreserved] at h; cases h
  all_goals cases h

theorem exec_inv {i : Instr} {s t : State} (hi : dispatches i = true → i = .dispatch) (hs : s.Inv)
    (h : exec i s = .next t) : t.Inv := by
  cases i
  case init => exact execInit_inv hs h
  case encode => exact finishEncode_inv hs h
  case encRespOk => exact finishEncode_inv hs h
  case encReport => exact finishEncode_inv hs h
  case encRespErr => exact finishEncode_inv hs h
  case decodeAt => exact execDecodeAt_inv hs h
  case push => exact execPush_inv hs h
  case tryDecode => exact execTryDecode_inv hs h
  case dispatch => exact execDispatch_inv hs h
  case rdreg => exact execRdreg_inv hs h
  case illegal0A => exact illegalOp_inv hs h
  case illegal0C => exact illegalOp_inv hs h
  case illegal10 => exact illegalOp_inv hs h
  case illegal20 => exact illegalOp_inv hs h
  case illegal40 => exact illegalOp_inv hs h
  case illegal80 => exact illegalOp_inv hs h
  all_goals cases hi rfl

/-- Taking an operation touches nothing that the invariant speaks of. -/
theorem State.Inv.accept {s : State} (hs : s.Inv) (inp : Input) (rest : List Input) : (s.accept inp rest).Inv :=
  { hs with }

/-- Settles O9: the step takes a host request, and each host operation keeps the invariant. -/
theorem stepKeepsInvariant : Obligations.StepKeepsInvariant := by
  intro s t hs h
  cases hin : s.inputs with
  | nil =>
    rw [step_waits s (fetch_nil s hin)] at h
    cases h
    exact hs
  | cons inp rest =>
    rw [step_fetched s _ _ (fetch_cons s inp rest hin)] at h
    exact exec_inv (decodeHost_dispatches inp.request) (hs.accept inp rest) h

/-! ### The step -/

/-- Settles O1: the fetch decodes the head of the pending operations. -/
theorem stepRunsDecodedRequest : Obligations.StepRunsDecodedRequest := by
  intro s
  constructor
  · intro inp rest hin
    exact ⟨step_fetched s _ _ (fetch_cons s inp rest hin), decodeHost_wf inp.request⟩
  · intro hin
    exact step_waits s (fetch_nil s hin)

/-! ### The invariant at reset -/

/-- A folded free value is a 32-bit number no less than its lower bound. -/
theorem inRange_bounds {lo : Nat} (n : Nat) (h : lo < 2 ^ 32) :
    lo ≤ Config.inRange lo n ∧ Config.inRange lo n < 2 ^ 32 := by
  have hmod : n % (2 ^ 32 - lo) < 2 ^ 32 - lo := Nat.mod_lt _ (by omega)
  unfold Config.inRange
  omega

/-- The free error texts are cut so that a REPLY_CAP exists. -/
theorem freeBase_maxMsgLen_le (mode : ErrLenMode) : (Config.freeBase mode).maxMsgLen ≤ Config.msgLimit := by
  simp [Config.maxMsgLen, Config.freeBase, List.length_take]

/-- An engine is constructed with parameters inside the bounds of R9, whatever the free values are. -/
theorem constructionIn_wf (mode : ErrLenMode) : (Config.constructionIn mode).wf = true := by
  have htext : 13 + (Config.freeBase mode).maxMsgLen < 2 ^ 32 := by
    have := freeBase_maxMsgLen_le mode
    unfold Config.msgLimit at this
    omega
  obtain ⟨hacc, hacc'⟩ := inRange_bounds (lo := 12) Config.freeAccCapacity (by omega)
  obtain ⟨hcap, hcap'⟩ := inRange_bounds Config.freeReplyCap htext
  simp only [Config.wf, Bool.and_eq_true, decide_eq_true_eq]
  exact ⟨⟨⟨hacc, hacc'⟩, hcap⟩, hcap'⟩

/-- Reset meets the invariant with any configuration inside its bounds. -/
theorem reset_inv {c : Config} (hc : c.wf = true) : ({ State.reset with cfg := c } : State).Inv where
  cfgWf := hc
  accFits := Nat.zero_le _
  msgOk := rfl
  statusLegal := rfl
  skipFits := Nat.zero_le _

/-- Settles O8: the construction is within its bounds in either mode. -/
theorem invariantHoldsAtReset : Obligations.InvariantHoldsAtReset :=
  ⟨reset_inv (constructionIn_wf _), rfl, fun mode => reset_inv (constructionIn_wf mode)⟩

/-! ### The replies of START_APP and EXIT_APP -/

/-- A reply was sent: the message is marked as replied, and the status is of the write and not of a refused reply. -/
def ReplySent (t : State) : Prop := t.status.last ≠ .argsError ∧ t.msg.hasBeenReplied = true

/-- A written reply does not leave ARGS_ERROR, whatever the sink answers. -/
theorem statusAfterWrite_ne_argsError (e : Env) (f : Bytes) (isErr : Bool) :
    (statusAfterWrite e f isErr).last ≠ .argsError := by
  unfold statusAfterWrite
  split
  · simp
  · simp
  · split <;> simp

/-- A sink that claims more than the frame stops the machine, so a frame that was sent met a sink within its duty. -/
theorem send_frame_next {s t : State} {f : Bytes} {r : Reason} (h : send s (.ok f) r = .next t) : s.env.sinkOk f := by
  unfold Env.sinkOk
  cases hs : s.env.sink with
  | all => trivial
  | error => trivial
  | count n =>
    by_contra hn
    have hover : n > f.length := by simpa using hn
    simp [send, sinkWrite, hs, hover] at h

theorem send_frame_sent {s t : State} {f : Bytes} {isErr : Bool}
    (h : send s (.ok f) (sentReason isErr) = .next t) : ReplySent t := by
  rw [send_frame s f isErr (send_frame_next h)] at h
  cases h
  exact ⟨statusAfterWrite_ne_argsError _ _ _, rfl⟩

theorem frameSize_none (body : Bytes) : frameSize body none = body.length + 12 := rfl

theorem frameSize_some (body : Bytes) (e : Byte) : frameSize body (some e) = body.length + 13 := rfl

/-- R9's bounds on REPLY_CAP: a frame of 32-bit size that holds every error reply. -/
theorem replyCap_bounds {c : Config} (hw : c.wf = true) (site : Site) :
    (c.errMsg site).length + 13 ≤ c.replyCap ∧ c.replyCap < 2 ^ 32 := by
  simp only [Config.wf, Bool.and_eq_true, decide_eq_true_eq] at hw
  obtain ⟨⟨-, hcap⟩, hcap'⟩ := hw
  have := errMsg_le c site
  omega

theorem replyErr_sent {s t : State} {code : Byte} {site : Site} (h : replyErr s code site = .next t)
    (hw : s.cfg.wf = true) : ReplySent t := by
  obtain ⟨hfit, hcap⟩ := replyCap_bounds hw site
  rw [replyErr, State.encodeWith, encodeFrame_fits _ _ _ _ _ _ _ ((frameSize_some _ _).trans_le hfit) hcap] at h
  exact send_frame_sent (isErr := true) h

/-- An ok reply without a body is no longer than an error reply. -/
theorem replyOk_empty_sent {s t : State} (h : replyOk s [] = .next t) (hw : s.cfg.wf = true) : ReplySent t := by
  obtain ⟨hfit, hcap⟩ := replyCap_bounds hw .startArgs
  rw [replyOk, State.encodeWith, encodeFrame_fits _ _ _ _ _ _ _ (by rw [frameSize_none, List.length_nil]; omega) hcap] at h
  exact send_frame_sent (isErr := false) h

/-- A query of the app list that goes on was answered within the registry's duty. -/
theorem queryApps_next {s t : State} {k : List AppRecord → State → Out} (h : queryApps s k = .next t) :
    k s.env.apps (s.logCall .listApps) = .next t := by
  unfold queryApps at h
  split at h
  · cases h
  · split at h
    · exact h
    · cases h

theorem startTarget_sent {s t : State} {target : Target} {arg : Bytes} (h : startTarget s target arg = .next t)
    (hw : s.cfg.wf = true) : ReplySent t := replyOk_empty_sent h hw

theorem execStartApp_sent {s t : State} (hw : s.cfg.wf = true) (h : execStartApp s = .next t) : ReplySent t := by
  unfold execStartApp at h
  split at h
  · exact replyErr_sent h hw
  · split at h
    · split at h
      · exact replyErr_sent h hw
      · exact startTarget_sent h hw
    · replace h := queryApps_next h
      split at h
      · exact replyErr_sent h hw
      · exact startTarget_sent h hw

theorem execExitApp_sent {s t : State} (hw : s.cfg.wf = true) (h : execExitApp s = .next t) : ReplySent t := by
  unfold execExitApp queryExit at h
  dsimp only at h
  split at h
  · exact replyErr_sent h hw
  · exact replyOk_empty_sent h hw

/-- Settles O57: every end of the two arms is an error reply or an ok reply without a body. -/
theorem startAndExitRepliesFit : Obligations.StartAndExitRepliesFit := by
  rintro s t hw (h | h)
  · exact execStartApp_sent hw h
  · exact execExitApp_sent hw h

/-! ### ENCODE -/

/-- ENCODE with version 1 and room, with and without an error code. -/
theorem execEncode_fits (s : State) (cmd flags : Byte) (body : Bytes) (err : Option Byte) (cap : Word)
    (hfit : frameSize body err ≤ cap.toNat) :
    exec (.encode cmd flags body err 1#8 cap) s =
      .next { s with
        status := ⟨.ok, .none⟩
        response := some ⟨.ok, .none, .frame (wireFrame s.cfgMagic (lengthField s.cfg.errLenMode body err)
          (flags ||| 1#8) cmd (err.toList ++ body))⟩ } := by
  have hframe := encodeFrame_fits s.cfg.errLenMode s.cfgMagic cmd flags body err cap.toNat hfit cap.isLt
  calc exec (.encode cmd flags body err 1#8 cap) s
      = finishEncode s (encodeFrame s.cfg.errLenMode s.cfgMagic cmd flags body err Config.protoVersionByte
          cap.toNat) := rfl
    _ = _ := by rw [hframe]; rfl

/-- The length field of an error frame in either mode (R103). -/
theorem lengthField_error (mode : ErrLenMode) (body : Bytes) (e : Byte) :
    lengthField mode body (some e) = if mode = .exact then body.length + 5 else body.length + 4 := by
  cases mode <;> rfl

/-- The four bytes of a field read low byte first. -/
theorem rdLe32_bytes (b0 b1 b2 b3 : Byte) (pre post : Bytes) :
    rdLe32 (pre ++ [b0, b1, b2, b3] ++ post) pre.length =
      b0.toNat + 256 * b1.toNat + 65536 * b2.toNat + 16777216 * b3.toNat := by
  rw [List.append_assoc]
  exact rdLe32_append_right pre _ 0

/-- The two bytes of a field read low byte first. -/
theorem rdLe16_bytes (b0 b1 : Byte) (pre post : Bytes) :
    rdLe16 (pre ++ [b0, b1] ++ post) pre.length = b0.toNat + 256 * b1.toNat := by
  rw [List.append_assoc]
  exact rdLe16_append_right pre _ 0

/-- Settles O31: the encoder answers the wire frame, its length field by the mode, and fields stand low byte first. -/
theorem encodeAnswersTheFrame : Obligations.EncodeAnswersTheFrame := by
  refine ⟨fun _ => rfl, fun _ => rfl, by decide, fun b0 b1 b2 b3 pre post => ⟨?_, ?_⟩,
    fun s cmd flags body cap => ⟨fun hfit => ?_, fun e hfit => ?_⟩⟩
  · exact rdLe32_bytes b0 b1 b2 b3 pre post
  · exact rdLe16_bytes b0 b1 pre post
  · exact execEncode_fits s cmd flags body none cap hfit
  · rw [execEncode_fits s cmd flags body (some e) cap ((frameSize_some _ _).trans_le hfit), lengthField_error]
    rfl

end Sys2Proof.Machine
end

section
/-! The family of 10_state.md. What a next state of any instruction can be is said once (`exec_effect`); each statement about
who writes an element of the state reads that element off its cases. -/

namespace Sys2Proof.Machine

/-! ### All that an instruction can do -/

/-- STATUS and the response take an answer, the last thing every operation but RDREG does (10_state.md rules R38, R46). -/
def State.answered (s : State) (a : Response) : State := { s with status := ⟨a.status, a.reason⟩, response := some a }

theorem StatusOnly.eq_answered {s t : State} (h : StatusOnly s t) : ∃ a, t = s.answered a := by
  obtain ⟨st, r, res, rfl⟩ := h
  exact ⟨⟨st, r, res⟩, rfl⟩

/-- The host operations that write nothing but STATUS and the response: the ENCODE family (41_framer.md rule R168) and the
reserved bytes (60_exceptions.md rule R322). -/
def writesStatusAlone : Instr → Bool
  | .encode _ _ _ _ _ _ | .encRespOk _ _ _ | .encReport _ _ _ | .encRespErr _ _ _ _ => true
  | .illegal0A _ | .illegal0C _ | .illegal10 _ | .illegal20 _ | .illegal40 _ | .illegal80 _ => true
  | _ => false

/-- Every next state that an instruction can answer: a case for each operation that writes more than STATUS, one for those
that write STATUS alone, and one for the dispatcher's. -/
inductive ExecEffect (s : State) : Instr → State → Prop
  | init (m : Word) (a : Response) :
      ExecEffect s (.init m) (State.answered
        { s with cfgMagic := m, acc := [], msgValid := false, msg := Message.cleared, lastSkip := 0#32,
                 exitReq := false } a)
  | decodeAt (buffer : Bytes) (m : Word) (a : Response) :
      ExecEffect s (.decodeAt buffer m) (State.answered { s with lastSkip := 0#32 } a)
  | pushed (data : Bytes) (a : Response) (hst : a.status = .ok) :
      ExecEffect s (.push data) (State.answered { s with acc := s.acc ++ data, lastSkip := 0#32 } a)
  | pushRefused (data : Bytes) (a : Response) (hst : a.status = .bufferFull) :
      ExecEffect s (.push data) (s.answered a)
  | tryDecode (k : Nat) (hk : k ≤ s.acc.length) (valid : Bool) (m : Message) (a : Response) :
      ExecEffect s .tryDecode (State.answered
        { s with acc := s.acc.drop k, msgValid := valid, msg := m, lastSkip := BitVec.ofNat 32 k } a)
  | rdreg (index : Byte) (a : Response) : ExecEffect s (.rdreg index) { s with response := some a }
  | statusAlone (i : Instr) (hi : writesStatusAlone i = true) (a : Response) : ExecEffect s i (s.answered a)
  | dispatched (i : Instr) (hi : dispatches i = true) (made : List AgentCall) (sent ex : Bool) (a : Response)
      (hframes : (made.filterMap AgentCall.frame?).length ≤ 1)
      (hexit : ex = true → mayExit i s ∧ s.env.exitResult = .ok ∧ .requestExit ∈ made)
      (hst : dispatchStatus a.status a.reason = true) :
      ExecEffect s i (State.answered
        { s with calls := s.calls ++ made, exitReq := s.exitReq || ex,
                 msg := { s.msg with hasBeenReplied := s.msg.hasBeenReplied || sent } } a)

theorem execInit_effect {m : Word} {s t : State} (h : execInit m s = .next t) : ExecEffect s (.init m) t := by
  cases h
  exact .init m ⟨.ok, .none, .none⟩

theorem execDecodeAt_effect {buffer : Bytes} {m : Word} {s t : State} (h : execDecodeAt buffer m s = .next t) :
    ExecEffect s (.decodeAt buffer m) t := by
  obtain ⟨u, hu, hst⟩ := execDecodeAt_next buffer m s
  cases hu.symm.trans h
  obtain ⟨a, rfl⟩ := hst.eq_answered
  exact .decodeAt buffer m a

theorem execPush_effect {data : Bytes} {s t : State} (h : execPush data s = .next t) : ExecEffect s (.push data) t := by
  obtain ⟨u, hu, ⟨-, hst, hok⟩ | ⟨-, hst, hfull⟩⟩ := execPush_next data s
  · cases hu.symm.trans h
    obtain ⟨a, rfl⟩ := hst.eq_answered
    exact .pushed data a (congrArg StatusReg.last hok)
  · cases hu.symm.trans h
    obtain ⟨a, rfl⟩ := hst.eq_answered
    exact .pushRefused data a (congrArg StatusReg.last hfull)

/-- What TRY_DECODE removes is no longer than the accumulator, by the deframer's bounds. -/
theorem execTryDecode_effect {s t : State} (h : execTryDecode s = .next t) : ExecEffect s .tryDecode t := by
  have hdec := decodeAt_ok s.acc s.cfgMagic
  obtain ⟨u, hu, ⟨m, c, hd, -, hst⟩ | ⟨k, why, hd, -, hst⟩ | ⟨-, -, hst⟩⟩ := execTryDecode_next s
  · cases hu.symm.trans h
    obtain ⟨a, rfl⟩ := hst.eq_answered
    rw [hd] at hdec
    obtain ⟨-, hc, -⟩ := hdec
    exact .tryDecode c hc true m a
  · cases hu.symm.trans h
    obtain ⟨a, rfl⟩ := hst.eq_answered
    rw [hd] at hdec
    obtain ⟨-, hk, -⟩ := hdec
    exact .tryDecode k hk false Message.cleared a
  · cases hu.symm.trans h
    obtain ⟨a, rfl⟩ := hst.eq_answered
    exact .tryDecode 0 (Nat.zero_le _) false Message.cleared a

theorem execRdreg_effect {index : Byte} {s t : State} (h : execRdreg index s = .next t) :
    ExecEffect s (.rdreg index) t := by
  obtain ⟨u, a, hu, rfl⟩ := execRdreg_next index s
  cases hu.symm.trans h
  exact .rdreg index a

theorem finishEncode_effect {i : Instr} (hi : writesStatusAlone i = true) {s t : State} {e : Except Reason Bytes}
    (h : finishEncode s e = .next t) : ExecEffect s i t := by
  obtain ⟨u, hu, hst⟩ := finishEncode_next s e
  cases hu.symm.trans h
  obtain ⟨a, rfl⟩ := hst.eq_answered
  exact .statusAlone i hi a

theorem illegalOp_effect {i : Instr} (hi : writesStatusAlone i = true) {s t : State} (h : illegalOp s = .next t) :
    ExecEffect s i t := by
  cases h
  exact .statusAlone i hi ⟨.illegalOp, .none, .none⟩

theorem exec_effect_of_dispatches {i : Instr} (hi : dispatches i = true) {s t : State} (h : exec i s = .next t) :
    ExecEffect s i t := by
  have hd := exec_dispatchOk i s hi
  rw [h] at hd
  obtain ⟨made, sent, ex, st, r, res, hframes, hexit, hst, rfl⟩ := hd
  exact .dispatched i hi made sent ex ⟨st, r, res⟩ hframes hexit hst

/-- All that an instruction can do, said once for every instruction. -/
theorem exec_effect {i : Instr} {s t : State} (h : exec i s = .next t) : ExecEffect s i t := by
  cases i
  case init => exact execInit_effect h
  case encode => exact finishEncode_effect rfl h
  case encRespOk => exact finishEncode_effect rfl h
  case encReport => exact finishEncode_effect rfl h
  case encRespErr => exact finishEncode_effect rfl h
  case decodeAt => exact execDecodeAt_effect h
  case push => exact execPush_effect h
  case tryDecode => exact execTryDecode_effect h
  case rdreg => exact execRdreg_effect h
  case illegal0A => exact illegalOp_effect rfl h
  case illegal0C => exact illegalOp_effect rfl h
  case illegal10 => exact illegalOp_effect rfl h
  case illegal20 => exact illegalOp_effect rfl h
  case illegal40 => exact illegalOp_effect rfl h
  case illegal80 => exact illegalOp_effect rfl h
  all_goals exact exec_effect_of_dispatches rfl h

/-! ### Reset -/

/-- Settles O7: the values are those `State.reset` is written with, none of them a free value of the configuration. -/
theorem resetLeavesSpecValues : Obligations.ResetLeavesSpecValues :=
  ⟨rfl, rfl, rfl, rfl, rfl, rfl, rfl, rfl⟩

/-! ### The configuration and the magic -/

theorem exec_cfg {i : Instr} {s t : State} (h : exec i s = .next t) : t.cfg = s.cfg := by
  cases exec_effect h <;> rfl

/-- Settles O10: waiting and taking an operation leave the configuration, and so does every instruction. -/
theorem configurationNeverChanges : Obligations.ConfigurationNeverChanges := by
  intro s t h
  cases hin : s.inputs with
  | nil =>
    rw [step_waits s (fetch_nil s hin)] at h
    cases h
    rfl
  | cons inp rest =>
    rw [step_fetched s _ _ (fetch_cons s inp rest hin)] at h
    exact (exec_cfg h).trans (State.accept_cfg s inp rest)

theorem exec_cfgMagic {i : Instr} {s t : State} (h : exec i s = .next t) (hinit : ∀ m, i ≠ .init m) :
    t.cfgMagic = s.cfgMagic := by
  cases exec_effect h with
  | init m => exact absurd rfl (hinit m)
  | _ => rfl

/-- Settles O11: INIT alone has the magic among its writes. -/
theorem onlyInitWritesMagic : Obligations.OnlyInitWritesMagic := by
  refine ⟨rfl, fun m s t h => ?_, fun i s t h hinit => exec_cfgMagic h hinit⟩
  cases h
  rfl

/-! ### The accumulator and `last_skip` -/

theorem exec_acc {i : Instr} {s t : State} (h : exec i s = .next t) (hinit : ∀ m, i ≠ .init m)
    (hpush : ∀ d, i ≠ .push d) (htry : i ≠ .tryDecode) : t.acc = s.acc := by
  cases exec_effect h with
  | init m => exact absurd rfl (hinit m)
  | pushed data => exact absurd rfl (hpush data)
  | tryDecode => exact absurd rfl htry
  | _ => rfl

/-- Settles O12: the accumulator is the same byte string, so every address reads as before. -/
theorem onlyAccumulatorOpsChangeAcc : Obligations.OnlyAccumulatorOpsChangeAcc := by
  intro i s t h hinit hpush htry
  have hacc := exec_acc h hinit hpush htry
  exact ⟨hacc, fun a => by rw [memByte, memByte, hacc]⟩

/-- R9's bound on ACC_CAPACITY: under the invariant every count of accumulator bytes fits the 32 bits of `last_skip`. -/
theorem State.Inv.acc_lt {s : State} (hs : s.Inv) : s.acc.length < 2 ^ 32 := by
  have hw := hs.cfgWf
  simp only [Config.wf, Bool.and_eq_true, decide_eq_true_eq] at hw
  obtain ⟨⟨⟨-, hcap⟩, -⟩, -⟩ := hw
  exact hs.accFits.trans_lt hcap

theorem exec_init_lastSkip {m : Word} {s t : State} (h : exec (.init m) s = .next t) : t.lastSkip = 0#32 := by
  cases h
  rfl

theorem exec_decodeAt_lastSkip {buffer : Bytes} {m : Word} {s t : State} (h : exec (.decodeAt buffer m) s = .next t) :
    t.lastSkip = 0#32 := by
  cases exec_effect h with
  | decodeAt => rfl
  | statusAlone _ hi => cases hi
  | dispatched _ hi => cases hi

/-- PUSH clears `last_skip` when it is accepted, and leaves it when it is refused (log entry 17). -/
theorem exec_push_lastSkip {data : Bytes} {s t : State} (h : exec (.push data) s = .next t) :
    (t.status.last = .ok ∧ t.lastSkip = 0#32) ∨ (t.status.last = .bufferFull ∧ t.lastSkip = s.lastSkip) := by
  cases exec_effect h with
  | pushed _ a hst => exact .inl ⟨hst, rfl⟩
  | pushRefused _ a hst => exact .inr ⟨hst, rfl⟩
  | statusAlone _ hi => cases hi
  | dispatched _ hi => cases hi

/-- TRY_DECODE leaves in `last_skip` the number of bytes it removed from the front. -/
theorem exec_tryDecode_lastSkip {s t : State} (hs : s.Inv) (h : exec .tryDecode s = .next t) :
    t.lastSkip.toNat ≤ s.acc.length ∧ t.acc = s.acc.drop t.lastSkip.toNat := by
  cases exec_effect h with
  | tryDecode k hk valid m a =>
    have hexact : (BitVec.ofNat 32 k).toNat = k := Nat.mod_eq_of_lt (hk.trans_lt hs.acc_lt)
    simp [State.answered, hexact, hk]
  | statusAlone _ hi => cases hi
  | dispatched _ hi => cases hi

theorem exec_lastSkip {i : Instr} {s t : State} (h : exec i s = .next t) (hinit : ∀ m, i ≠ .init m)
    (hdecode : ∀ b m, i ≠ .decodeAt b m) (hpush : ∀ d, i ≠ .push d) (htry : i ≠ .tryDecode) :
    t.lastSkip = s.lastSkip := by
  cases exec_effect h with
  | init m => exact absurd rfl (hinit m)
  | decodeAt b m => exact absurd rfl (hdecode b m)
  | pushed data => exact absurd rfl (hpush data)
  | tryDecode => exact absurd rfl htry
  | _ => rfl

/-- Settles O13: each writer by its own lemma; the invariant makes TRY_DECODE's 32-bit count exact. -/
theorem lastSkipCountsTheDiscard : Obligations.LastSkipCountsTheDiscard := by
  intro i s t hs h
  refine ⟨?_, ?_, ?_, ?_, ?_, exec_lastSkip h⟩
  · rintro m rfl
    exact exec_init_lastSkip h
  · rintro b m rfl
    exact exec_decodeAt_lastSkip h
  · rintro d rfl hok
    obtain ⟨-, hskip⟩ | ⟨hfull, -⟩ := exec_push_lastSkip h
    · exact hskip
    · simp [hfull] at hok
  · rintro d rfl hne
    obtain ⟨hok, -⟩ | ⟨-, hskip⟩ := exec_push_lastSkip h
    · exact absurd hok hne
    · exact hskip
  · rintro rfl
    obtain ⟨hle, hacc⟩ := exec_tryDecode_lastSkip hs h
    refine ⟨?_, hacc⟩
    rw [hacc, List.length_drop]
    omega

/-! ### The message register, `exit_req` and the calls -/

/-- Outside INIT and TRY_DECODE the message register changes in `has_been_replied` alone, which the dispatcher may set. -/
theorem exec_msg {i : Instr} {s t : State} (h : exec i s = .next t) (hinit : ∀ m, i ≠ .init m)
    (htry : i ≠ .tryDecode) :
    t.msgValid = s.msgValid ∧
      (t.msg = s.msg ∨ (dispatches i = true ∧ t.msg = { s.msg with hasBeenReplied := true })) := by
  cases exec_effect h with
  | init m => exact absurd rfl (hinit m)
  | tryDecode => exact absurd rfl htry
  | dispatched _ hi made sent =>
    cases sent with
    | true => exact ⟨rfl, .inr ⟨hi, by simp [State.answered]⟩⟩
    | false => exact ⟨rfl, .inl (by simp [State.answered])⟩
  | _ => exact ⟨rfl, .inl rfl⟩

/-- Settles O14: the message is as before, or marked as replied by the dispatcher. -/
theorem messageRegisterLife : Obligations.MessageRegisterLife := by
  intro i s t h hinit htry
  obtain ⟨hvalid, hmsg | ⟨hi, hmsg⟩⟩ := exec_msg h hinit htry
  · rw [hvalid, hmsg]
    exact ⟨rfl, rfl, rfl, rfl, fun _ => rfl, id⟩
  · rw [hvalid, hmsg, hi]
    exact ⟨rfl, rfl, rfl, rfl, nofun, fun _ => rfl⟩

/-- `exit_req` after an instruction: as before, cleared by INIT, or set where `mayExit` allows it and `request_exit` was
called and answered ok. -/
theorem exec_exitReq {i : Instr} {s t : State} (h : exec i s = .next t) :
    t.exitReq = s.exitReq ∨ (t.exitReq = false ∧ ∃ m, i = .init m) ∨
      (t.exitReq = true ∧ mayExit i s ∧ s.env.exitResult = .ok ∧
        ∃ made, t.calls = s.calls ++ made ∧ .requestExit ∈ made) := by
  cases exec_effect h with
  | init m => exact .inr (.inl ⟨rfl, m, rfl⟩)
  | dispatched _ _ made sent ex _ _ hexit =>
    cases ex with
    | true =>
      obtain ⟨hmay, hok, hmem⟩ := hexit rfl
      exact .inr (.inr ⟨Bool.or_true _, hmay, hok, made, rfl, hmem⟩)
    | false => exact .inl (Bool.or_false _)
  | _ => exact .inl rfl

/-- Settles O15: of the three ends of `exec_exitReq`, only INIT's clears and only EXIT_APP's sets. -/
theorem exitRequestIsSticky : Obligations.ExitRequestIsSticky := by
  intro i s t h
  obtain hsame | ⟨hclear, hinit⟩ | ⟨hset, hmay, hok, hcalled⟩ := exec_exitReq h
  · rw [hsame]
    exact ⟨fun h1 h0 => by simp [h1] at h0, fun h0 h1 => by simp [h0] at h1⟩
  · exact ⟨fun _ _ => hinit, fun _ h1 => by simp [hclear] at h1⟩
  · exact ⟨fun _ h0 => by simp [hset] at h0, fun _ _ => ⟨hmay, hok, hcalled⟩⟩

/-- Settles O16: the dispatcher's case bounds the frames among its calls, and every other case adds no call. -/
theorem onlyDispatchCallsAgents : Obligations.OnlyDispatchCallsAgents := by
  intro i s t h
  cases exec_effect h with
  | dispatched _ hi made _ _ _ hframes => exact ⟨made, rfl, fun hi' => by simp [hi'] at hi, hframes⟩
  | _ => exact ⟨[], (List.append_nil _).symm, fun _ => rfl, Nat.zero_le _⟩

/-! ### STATUS -/

/-- Every operation but RDREG writes to STATUS what it returns. -/
theorem exec_status_eq_response {i : Instr} {s t : State} (h : exec i s = .next t) (hrdreg : ∀ x, i ≠ .rdreg x) :
    ∃ r : Response, t.response = some r ∧ t.status = ⟨r.status, r.reason⟩ := by
  cases exec_effect h with
  | rdreg x => exact absurd rfl (hrdreg x)
  | _ => exact ⟨_, rfl, rfl⟩

/-! The word's fields stand side by side, so each is read by dropping the fields below it. -/

theorem statusWord_last (s : State) : (statusWord s).extractLsb' 0 4 = s.status.last.code :=
  BitVec.extractLsb'_append_eq_right

theorem statusWord_reason (s : State) : (statusWord s).extractLsb' 4 4 = s.status.reason.code := by
  rw [statusWord, BitVec.extractLsb'_append_eq_of_le (by decide)]
  exact BitVec.extractLsb'_append_eq_right

theorem statusWord_msgValid (s : State) : (statusWord s).getLsbD 8 = s.msgValid := by
  rw [statusWord, BitVec.getLsbD_append, BitVec.getLsbD_append, BitVec.getLsbD_append]
  simp

theorem statusWord_replied (s : State) : (statusWord s).getLsbD 9 = s.msg.hasBeenReplied := by
  rw [statusWord, BitVec.getLsbD_append, BitVec.getLsbD_append, BitVec.getLsbD_append, BitVec.getLsbD_append]
  simp

theorem statusWord_exitReq (s : State) : (statusWord s).getLsbD 10 = s.exitReq := by
  rw [statusWord, BitVec.getLsbD_append, BitVec.getLsbD_append, BitVec.getLsbD_append, BitVec.getLsbD_append,
    BitVec.getLsbD_append]
  simp

theorem statusWord_high (s : State) : (statusWord s).extractLsb' 11 21 = 0#21 := by
  rw [statusWord, BitVec.extractLsb'_append_eq_of_le (by decide), BitVec.extractLsb'_append_eq_of_le (by decide),
    BitVec.extractLsb'_append_eq_of_le (by decide), BitVec.extractLsb'_append_eq_of_le (by decide)]
  exact BitVec.extractLsb'_append_eq_left

/-- Settles O27: each field by its bits of the word; reset has all of them zero. -/
theorem statusRegisterFields : Obligations.StatusRegisterFields := fun s =>
  ⟨statusWord_last s, statusWord_reason s, statusWord_msgValid s, statusWord_replied s, statusWord_exitReq s,
    statusWord_high s, rfl, fun _ _ h hrdreg => exec_status_eq_response h hrdreg⟩

end Sys2Proof.Machine
end


section
/-! The family of 20_memory.md. What PUSH, TRY_DECODE and INIT leave as the accumulator, and from it the byte at each of its
addresses. -/

namespace Sys2Proof.Machine

/-- An address reads the accumulator and nothing else of the state (20_memory.md rule R70). -/
theorem memByte_of_acc_eq {s t : State} (hacc : t.acc = s.acc) (a : Nat) : memByte t a = memByte s a := by
  rw [memByte, memByte, hacc]

/-- PUSH is accepted with the whole of its data appended, or refused with the accumulator as it was; the capacity decides
which. -/
theorem exec_push_acc {data : Bytes} {s t : State} (h : exec (.push data) s = .next t) :
    (s.acc.length + data.length ≤ s.cfg.accCapacity ∧ t.acc = s.acc ++ data) ∨
      (s.acc.length + data.length > s.cfg.accCapacity ∧ t.acc = s.acc) := by
  obtain ⟨u, hu, ⟨hfit, hst, -⟩ | ⟨hfull, hst, -⟩⟩ := execPush_next data s
  · cases hu.symm.trans h
    obtain ⟨a, rfl⟩ := hst.eq_answered
    exact .inl ⟨hfit, rfl⟩
  · cases hu.symm.trans h
    obtain ⟨a, rfl⟩ := hst.eq_answered
    exact .inr ⟨hfull, rfl⟩

theorem exec_init_acc {m : Word} {s t : State} (h : exec (.init m) s = .next t) : t.acc = [] := by
  cases h
  rfl

/-- PUSH byte by byte: an append when it is accepted, every address as before when it is refused. -/
theorem exec_push_memByte {data : Bytes} {s t : State} (h : exec (.push data) s = .next t) :
    (∀ a, a < s.acc.length → memByte t a = memByte s a) ∧
      (s.acc.length + data.length ≤ s.cfg.accCapacity → ∀ k : Nat, memByte t (s.acc.length + k) = data[k]?) ∧
      (s.acc.length + data.length > s.cfg.accCapacity → ∀ a, memByte t a = memByte s a) := by
  obtain ⟨hfit, hacc⟩ | ⟨hfull, hacc⟩ := exec_push_acc h
  · have happend : ∀ a, memByte t a = memByte (s.setAcc (s.acc ++ data)) a := memByte_of_acc_eq hacc
    refine ⟨fun a ha => ?_, fun _ k => ?_, fun hfull => absurd hfit hfull.not_ge⟩
    · rw [happend, memByte_append_left s data a ha]
    · rw [happend, memByte_append_right s data k]
  · have hsame : ∀ a, memByte t a = memByte s a := memByte_of_acc_eq hacc
    exact ⟨fun a _ => hsame a, fun hfit => absurd hfit hfull.not_ge, fun _ => hsame⟩

/-- TRY_DECODE byte by byte: a prefix discard of the `last_skip` it leaves. -/
theorem exec_tryDecode_memByte {s t : State} (hs : s.Inv) (h : exec .tryDecode s = .next t) (a : Nat) :
    memByte t a = memByte s (t.lastSkip.toNat + a) := by
  obtain ⟨-, hacc⟩ := exec_tryDecode_lastSkip hs h
  rw [memByte, memByte, hacc, List.getElem?_drop]

theorem exec_init_memByte {m : Word} {s t : State} (h : exec (.init m) s = .next t) (a : Nat) : memByte t a = none := by
  rw [memByte, exec_init_acc h, List.getElem?_nil]

/-- Settles O23: each of the three operations by its own lemma; the invariant makes TRY_DECODE's 32-bit count exact. -/
theorem accumulatorBytesMoveAsStated : Obligations.AccumulatorBytesMoveAsStated := fun _ _ hs =>
  ⟨fun _ h => exec_push_memByte h, exec_tryDecode_memByte hs, fun _ h => exec_init_memByte h⟩

end Sys2Proof.Machine
end


section
/-! The family of 30_encoding.md. The decoders give back what the encoder wrote, row by row; the convenience encodings are
ENCODE; and the length field of an error frame in the two modes, with what the deframer makes of the LEGACY one. -/

namespace Sys2Proof

/-! ### Decoding -/

theorem byteIn_iff {lo hi : Nat} {b : Byte} : byteIn lo hi b = true ↔ lo ≤ b.toNat ∧ b.toNat ≤ hi := by
  simp [byteIn]

theorem versionOk_iff {b : Byte} : versionOk b = true ↔ b.extractLsb' 0 2 = 1#2 := decide_eq_true_iff

/-- A byte in the range of a reserved row decodes to that row: the ranges do not meet (30_encoding.md rule R117). -/
theorem decodeReservedOp_of_wf {b : Byte} {i : Instr} (h : i.wf = true)
    (hi : i ∈ [.illegal0A b, .illegal0C b, .illegal10 b, .illegal20 b, .illegal40 b, .illegal80 b]) :
    decodeReservedOp b = i := by
  simp only [List.mem_cons, List.not_mem_nil, or_false] at hi
  obtain rfl | rfl | rfl | rfl | rfl | rfl := hi <;>
    · rw [Instr.wf, byteIn_iff] at h
      grind [decodeReservedOp]

/-- A cmd byte in the range of an unassigned id's row decodes to that row (30_encoding.md rules R109, R111). -/
theorem decodeCmd_of_wf {b : Byte} {i : Instr} (h : i.wf = true)
    (hi : i ∈ [.appCmd00 b, .appCmd80 b, .appCmdC0 b, .reservedC8 b, .reservedD0 b, .reservedE0 b, .reservedF0 b]) :
    decodeCmd b = i := by
  simp only [List.mem_cons, List.not_mem_nil, or_false] at hi
  obtain rfl | rfl | rfl | rfl | rfl | rfl | rfl := hi <;>
    · rw [Instr.wf, byteIn_iff] at h
      grind [decodeCmd]

/-- Settles O3: an operation and an assigned id by evaluation, a row of a range by its range, a frame kind by its bit 7. -/
theorem encodedInstructionDecodesBack : Obligations.EncodedInstructionDecodesBack := by
  intro i h
  cases i with
  | init | encode | encRespOk | encReport | encRespErr | decodeAt | push | tryDecode | dispatch | rdreg => rfl
  | illegal0A b | illegal0C b | illegal10 b | illegal20 b | illegal40 b | illegal80 b =>
    have h10 : 10 ≤ b.toNat := by rw [Instr.wf, byteIn_iff] at h; omega
    rw [encode, decode, decodeHost_reserved _ h10, decodeReservedOp_of_wf h (by simp)]
  | setReport | appList | startApp | exitApp | curAppInfo | appInfo | key | touch => rfl
  | appCmd00 b | appCmd80 b | appCmdC0 b | reservedC8 b | reservedD0 b | reservedE0 b | reservedF0 b =>
    rw [encode, decode, decodeCmd_of_wf h (by simp)]
  | frameRequest b | frameResponse b =>
    simp only [Instr.wf, Bool.and_eq_true, Bool.not_eq_true'] at h
    obtain ⟨hbit, hver⟩ := h
    rw [encode, decode, decodeFlags_spec b hver, hbit]
    rfl

/-- Settles O4: the cmd byte's arm is what it decodes to; the version field decides about a flags byte, then bit 7. -/
theorem frameBytesDecodeToTheirRows : Obligations.FrameBytesDecodeToTheirRows := by
  refine fun b => ⟨⟨decodeCmd b, rfl, decodeCmd_spec b⟩, fun hver hbit => ?_, fun hver hbit => ?_, fun hver => ?_⟩
  · rw [decode, decodeFlags_spec b (versionOk_iff.2 hver), hbit]
    rfl
  · rw [decode, decodeFlags_spec b (versionOk_iff.2 hver), hbit]
    rfl
  · exact if_neg (mt versionOk_iff.1 hver)

/-- Settles O2: the decoder evaluates to each row, whatever the arguments. -/
theorem specWordsDecode : Obligations.SpecWordsDecode :=
  ⟨fun _ => rfl, fun _ => rfl, fun _ => rfl, fun _ => rfl, fun _ => rfl, fun _ => rfl, rfl, rfl, rfl, rfl, rfl⟩

end Sys2Proof

namespace Sys2Proof.Machine

/-- Settles O6: each row runs `illegalOp`, which raises ILLEGAL_OP. -/
theorem illegalRowsComplete : Obligations.IllegalRowsComplete := fun _ s =>
  have h := raise_eq s .illegalOp .none
  ⟨h, h, h, h, h, h⟩

/-! ### The convenience encodings -/

theorem exec_encRespOk (cmd : Byte) (body : Bytes) (cap : Word) (s : State) :
    exec (.encRespOk cmd body cap) s = exec (.encode cmd 0xC0#8 body none 1#8 cap) s := rfl

theorem exec_encReport (cmd : Byte) (body : Bytes) (cap : Word) (s : State) :
    exec (.encReport cmd body cap) s = exec (.encode cmd 0xE0#8 body none 1#8 cap) s := rfl

theorem exec_encRespErr (cmd code : Byte) (message : Bytes) (cap : Word) (s : State) :
    exec (.encRespErr cmd code message cap) s = exec (.encode cmd 0x80#8 message (some code) 1#8 cap) s := rfl

/-- Settles O33: the constants of R105 make the three flags bytes, and FALLBACK is ENC_RESP_ERR. -/
theorem convenienceEncodingsExpand : Obligations.ConvenienceEncodingsExpand := fun s cmd code body cap =>
  ⟨exec_encRespOk cmd body cap s, exec_encReport cmd body cap s, exec_encRespErr cmd code body cap s,
    exec_encRespErr cmd s.cfg.errcodeArgs fallbackText cap s⟩

/-! ### The mode of error frames -/

/-- The length field of a frame alone. -/
theorem rdLe32_wireFrame_alone (magic : Word) (length : Nat) (fl cmd : Byte) (rest : Bytes) (h : length < 2 ^ 32) :
    rdLe32 (wireFrame magic length fl cmd rest) 4 = length := by
  simpa using rdLe32_wireFrame [] magic length fl cmd rest [] h

/-- With an error code, ENCODE answers a frame of 13 bytes more than the body, whose length field is by the mode. -/
theorem execEncode_error_length (s : State) (cmd flags e : Byte) (body : Bytes) (cap : Word)
    (hfit : body.length + 13 ≤ cap.toNat) :
    ∃ (f : Bytes) (t : State), exec (.encode cmd flags body (some e) 1#8 cap) s = .next t ∧
      t.response = some ⟨.ok, .none, .frame f⟩ ∧
      rdLe32 f 4 = lengthField s.cfg.errLenMode body (some e) ∧ f.length = body.length + 13 := by
  have hcap := cap.isLt
  have hlen := lengthField_lt_size s.cfg.errLenMode body (some e)
  rw [frameSize_some] at hlen
  exact ⟨_, _, execEncode_fits s cmd flags body (some e) cap hfit, rfl,
    rdLe32_wireFrame_alone _ _ _ _ _ (by omega), by simp⟩

/-- Without an error code the mode does not show in the frame. -/
theorem execEncode_ok_modes (s : State) (mode : ErrLenMode) (cmd flags : Byte) (body : Bytes) (cap : Word)
    (hfit : body.length + 12 ≤ cap.toNat) :
    ∃ (f : Bytes) (t u : State), exec (.encode cmd flags body none 1#8 cap) s = .next t ∧
      t.response = some ⟨.ok, .none, .frame f⟩ ∧
      exec (.encode cmd flags body none 1#8 cap) { s with cfg := { s.cfg with errLenMode := mode } } = .next u ∧
      u.response = some ⟨.ok, .none, .frame f⟩ :=
  ⟨_, _, _, execEncode_fits s cmd flags body none cap hfit, rfl, execEncode_fits _ cmd flags body none cap hfit, rfl⟩

/-- Settles O60: every instruction of either list is an ENCODE; R103 gives its length field with an error code. -/
theorem errorFrameLengthFollowsTheMode : Obligations.ErrorFrameLengthFollowsTheMode := by
  refine ⟨rfl, fun s cmd flags e body cap => ⟨fun i hi hfit => ?_, fun i mode hi hfit => ?_⟩⟩
  · have henc : ∃ fl, exec i s = exec (.encode cmd fl body (some e) 1#8 cap) s := by
      simp only [List.mem_cons, List.not_mem_nil, or_false] at hi
      obtain rfl | rfl := hi
      · exact ⟨flags, rfl⟩
      · exact ⟨0x80#8, exec_encRespErr cmd e body cap s⟩
    obtain ⟨fl, henc⟩ := henc
    obtain ⟨f, t, ht, hres, hfield, hsize⟩ := execEncode_error_length s cmd fl e body cap hfit
    rw [lengthField_error] at hfield
    refine ⟨f, t, henc.trans ht, hres, fun hmode => ?_, fun hmode => ?_⟩
    · rw [hmode, if_pos rfl] at hfield
      omega
    · rw [hmode, if_neg (by decide)] at hfield
      omega
  · have henc : ∃ fl, ∀ s, exec i s = exec (.encode cmd fl body none 1#8 cap) s := by
      simp only [List.mem_cons, List.not_mem_nil, or_false] at hi
      obtain rfl | rfl | rfl := hi
      · exact ⟨flags, fun _ => rfl⟩
      · exact ⟨0xC0#8, exec_encRespOk cmd body cap⟩
      · exact ⟨0xE0#8, exec_encReport cmd body cap⟩
    obtain ⟨fl, henc⟩ := henc
    simp only [henc]
    exact execEncode_ok_modes s mode cmd fl body cap hfit

/-! ### The LEGACY error frame -/

/-- When a frame of version 1 is present with a legal length field, the CRC check alone decides whether it is found; either
way its span is consumed (42_deframer.md rules R196, R199). -/
theorem decodeFrom_present {buf : Bytes} {i n : Nat} (hfield : rdLe32 buf (i + 4) = n) (hmin : 4 ≤ n)
    (hpresent : i + 8 + n ≤ buf.length) (hver : versionOk (byteAt buf (i + 8)) = true) :
    decodeFrom buf i =
      if crcMatches buf i n then .found (parseMessage buf i n) (i + 8 + n) else .notFound (i + 8 + n) .crc := by
  rw [decodeFrom, hfield, if_neg (by omega), if_neg (by omega), if_neg (by omega), Nat.min_eq_left hpresent,
    if_neg (by simp [hver] : ¬ versionOk (byteAt buf (i + 8)) = false)]
  cases crcMatches buf i n <;> rfl

/-- The magic of a frame alone stands at its first byte, so no earlier offset can hold it. -/
theorem magicAt_wireFrame (magic : Word) (length : Nat) (fl cmd : Byte) (rest : Bytes) :
    magicAt (wireFrame magic length fl cmd rest) magic 0 := by
  refine ⟨by simp, ?_, fun k hk => absurd hk (Nat.not_lt_zero k)⟩
  simpa using slice_wireFrame_magic [] magic length fl cmd rest []

theorem byteAt_wireFrame_flags_alone (magic : Word) (length : Nat) (fl cmd : Byte) (rest : Bytes) :
    byteAt (wireFrame magic length fl cmd rest) 8 = fl := by
  simpa using byteAt_wireFrame_flags [] magic length fl cmd rest []

theorem byteAt_wireFrame_cmd_alone (magic : Word) (length : Nat) (fl cmd : Byte) (rest : Bytes) :
    byteAt (wireFrame magic length fl cmd rest) 9 = cmd := by
  simpa using byteAt_wireFrame_cmd [] magic length fl cmd rest []

/-- The first bytes behind the cmd of a frame. -/
theorem slice_wireFrame_take (magic : Word) (length : Nat) (fl cmd : Byte) (rest : Bytes) (n : Nat)
    (hn : n ≤ rest.length) : slice (wireFrame magic length fl cmd rest) 10 (10 + n) = rest.take n := by
  have hsplit : wireFrame magic length fl cmd rest =
      (le32 magic ++ le32 (BitVec.ofNat 32 length) ++ [fl, cmd]) ++ rest.take n ++
        (rest.drop n ++ le16 (crc16 (frameBytes magic length fl cmd rest))) := by
    rw [List.append_assoc _ (rest.take n), ← List.append_assoc (rest.take n), List.take_append_drop,
      ← List.append_assoc]
    rfl
  rw [hsplit]
  exact slice_middle _ _ _ _ _ rfl (by simp; omega)

/-- A frame whose length field is one short parses without the last byte behind its cmd (42_deframer.md rule R199). -/
theorem parseMessage_wireFrame_short (magic : Word) (length : Nat) (fl cmd code : Byte) (message : Bytes) :
    parseMessage (wireFrame magic length fl cmd (code :: message)) 0 (message.length + 4) =
      ⟨fl, cmd, (code :: message).dropLast, false⟩ := by
  have hbody := slice_wireFrame_take magic length fl cmd (code :: message) message.length (by simp)
  have hend : 0 + 6 + (message.length + 4) = 10 + message.length := by omega
  rw [parseMessage, hend, Nat.zero_add, Nat.zero_add, Nat.zero_add, byteAt_wireFrame_flags_alone,
    byteAt_wireFrame_cmd_alone, hbody, List.dropLast_eq_take, List.length_cons, Nat.add_sub_cancel]

/-- Settles O40: the frame is present but for its last byte, so the CRC check alone decides between the two outcomes. -/
theorem legacyErrorFrameIsMisread : Obligations.LegacyErrorFrameIsMisread := by
  intro magic cmd code message hlt
  have hlen : (wireFrame magic (message.length + 4) 0x81#8 cmd (code :: message)).length = message.length + 13 := by
    simp
  have hver : versionOk (byteAt (wireFrame magic (message.length + 4) 0x81#8 cmd (code :: message)) 8) = true := by
    rw [byteAt_wireFrame_flags_alone]
    rfl
  have hspan : 0 + 8 + (message.length + 4) = message.length + 12 := by omega
  rw [decodeAt_magic _ _ 0 (by omega) (magicAt_wireFrame ..),
    decodeFrom_present (rdLe32_wireFrame_alone _ _ _ _ _ hlt) (by omega) (by omega) hver, hspan,
    parseMessage_wireFrame_short]
  split
  · exact .inr rfl
  · exact .inl rfl

end Sys2Proof.Machine
end

section
/-! The family of 40_crc.md. One changed byte changes the CRC, and the checker accepts two bytes only when they are the CRC of
the bytes before them; so a change on either side fails the check. -/

namespace Sys2Proof.Machine

/-- Settles O29: the model computes each of the six values. -/
theorem crcReferenceValues : Obligations.CrcReferenceValues := by
  unfold Obligations.CrcReferenceValues
  decide +kernel

/-! ### The CRC of a string with one byte changed -/

theorem crcFold_injective (b : Bytes) : Function.Injective (fun c => b.foldl crcByte c) := by
  intro c d (h : b.foldl crcByte c = b.foldl crcByte d)
  have hrun : b.foldl crcByte d = b.foldl crcByte c ^^^ (List.replicate b.length 0#8).foldl crcByte (c ^^^ d) := by
    rw [← crcFold_xor, ← BitVec.xor_assoc, BitVec.xor_self, BitVec.zero_xor]
  have hzero : (List.replicate b.length 0#8).foldl crcByte (c ^^^ d) = 0#16 := by
    rwa [← h, ← BitVec.xor_zero (x := b.foldl crcByte c), BitVec.xor_assoc, BitVec.xor_right_inj, BitVec.zero_xor,
      eq_comm] at hrun
  by_contra hne
  exact crcFold_zeros_ne b.length (mt BitVec.xor_eq_zero_iff.1 hne) hzero

theorem crcByte_injective (c : BitVec 16) : Function.Injective (crcByte c) := by
  intro x y h
  have hzero : crcByte 0#16 (x ^^^ y) = 0#16 := by
    rw [← BitVec.xor_self (x := c), crcByte_xor, h, BitVec.xor_self, BitVec.xor_self]
  exact BitVec.xor_eq_zero_iff.1 (crcByte_of_zero_eq_zero hzero)

/-- Strings that differ in one byte have different CRCs. -/
theorem crc16_modify_ne {l : Bytes} {p : Nat} {f : Byte → Byte} (hf : ∀ x, f x ≠ x) (hp : p < l.length) :
    crc16 (l.modify p f) ≠ crc16 l := by
  obtain ⟨pre, x, post, hl, -, hmod⟩ := List.exists_of_modify f hp
  intro h
  rw [hmod, hl] at h
  simp only [crc16, List.foldl_append, List.foldl_cons] at h
  exact hf x (crcByte_injective _ (crcFold_injective post h))

theorem modify_ne {l : Bytes} {p : Nat} {f : Byte → Byte} (hf : ∀ x, f x ≠ x) (hp : p < l.length) :
    l.modify p f ≠ l :=
  fun h => crc16_modify_ne hf hp (congrArg crc16 h)

/-! ### Reading before a changed byte -/

theorem slice_modify_of_le (b : Bytes) (f : Byte → Byte) {p j k : Nat} (h : k ≤ p) :
    slice (b.modify p f) j k = slice b j k := by
  rw [slice, List.take_modify, List.modify_eq_self (by simp; omega), slice]

theorem byteAt_modify_of_lt (b : Bytes) (f : Byte → Byte) {p k : Nat} (h : k < p) :
    byteAt (b.modify p f) k = byteAt b k := by
  rw [byteAt, byteAt, List.getD_eq_getElem?_getD, List.getElem?_modify_ne f b (by omega),
    List.getD_eq_getElem?_getD]

theorem rdLe32_modify_of_le (b : Bytes) (f : Byte → Byte) {p k : Nat} (h : k + 4 ≤ p) :
    rdLe32 (b.modify p f) k = rdLe32 b k := by
  simp only [rdLe32]
  rw [byteAt_modify_of_lt b f (by omega), byteAt_modify_of_lt b f (by omega), byteAt_modify_of_lt b f (by omega),
    byteAt_modify_of_lt b f (by omega)]

theorem magicAt_zero_modify {b : Bytes} {magic : Word} (f : Byte → Byte) {p : Nat} (hp : 4 ≤ p)
    (h : magicAt b magic 0) : magicAt (b.modify p f) magic 0 := by
  obtain ⟨hlen, hmagic, -⟩ := h
  exact ⟨by simpa using hlen, (slice_modify_of_le b f hp).trans hmagic, fun k hk => absurd hk (Nat.not_lt_zero k)⟩

/-! ### The CRC check -/

theorem le16_injective : Function.Injective le16 := by
  intro v w h
  apply BitVec.eq_of_toNat_eq
  rw [← rdLe16_le16 v [], h, rdLe16_le16 w []]

theorem slice_zero (b : Bytes) (k : Nat) : slice b 0 k = b.take k := rfl

theorem rdLe16_drop (b : Bytes) (k : Nat) : rdLe16 (b.drop k) 0 = rdLe16 b k := by
  simp [rdLe16, byteAt]

/-- Two bytes read as a value exactly when they are that value, low byte first. -/
theorem rdLe16_eq_toNat_iff {t : Bytes} (ht : t.length = 2) (v : BitVec 16) : rdLe16 t 0 = v.toNat ↔ t = le16 v := by
  obtain ⟨lo, hi, rfl⟩ := List.length_eq_two.1 ht
  constructor
  · intro h
    have hread : lo.toNat + 256 * hi.toNat = v.toNat := h
    have hlo := lo.isLt
    have hhi := hi.isLt
    have hlow : lo = v.extractLsb' 0 8 := by
      apply BitVec.eq_of_toNat_eq
      rw [BitVec.extractLsb'_toNat, Nat.shiftRight_eq_div_pow]
      omega
    have hhigh : hi = v.extractLsb' 8 8 := by
      apply BitVec.eq_of_toNat_eq
      rw [BitVec.extractLsb'_toNat, Nat.shiftRight_eq_div_pow]
      omega
    rw [hlow, hhigh, le16]
  · intro h
    rw [h]
    exact rdLe16_le16 v []

/-- The checker passes a frame that fills the buffer exactly when the last two bytes are the CRC of the others (40_crc.md
rule R144). -/
theorem crcMatches_iff {buf : Bytes} {n : Nat} (hlen : buf.length = n + 8) :
    crcMatches buf 0 n = true ↔ buf.drop (6 + n) = le16 (crc16 (buf.take (6 + n))) := by
  rw [← rdLe16_eq_toNat_iff (by simp; omega), rdLe16_drop, crcMatches, slice_zero, decide_eq_true_iff, Nat.zero_add,
    eq_comm]

theorem crcMatches_wireFrame (magic : Word) (length : Nat) (fl cmd : Byte) (rest : Bytes) :
    crcMatches (wireFrame magic length fl cmd rest) 0 (rest.length + 4) = true := by
  rw [crcMatches_iff (by simp), wireFrame_eq]
  have hsize : 6 + (rest.length + 4) = (frameBytes magic length fl cmd rest).length := by simp; omega
  rw [hsize, List.drop_left, List.take_left]

/-- A frame that passes the CRC check fails it once one byte is changed, inside the span or in the CRC field. -/
theorem crcMatches_modify {buf : Bytes} {n p : Nat} {f : Byte → Byte} (hf : ∀ x, f x ≠ x) (hlen : buf.length = n + 8)
    (hp : p < n + 8) (h : crcMatches buf 0 n = true) : crcMatches (buf.modify p f) 0 n = false := by
  rw [crcMatches_iff hlen] at h
  rw [← Bool.not_eq_true, crcMatches_iff (by simpa using hlen), List.take_modify]
  by_cases hspan : p < 6 + n
  · rw [List.drop_modify_of_lt f p _ buf hspan, h]
    exact fun heq => crc16_modify_ne hf (by simp; omega) (le16_injective heq).symm
  · rw [List.drop_modify_of_ge f p _ buf (by omega),
      List.modify_eq_self (l := buf.take (6 + n)) (by simp; omega), ← h]
    exact modify_ne hf (by simp; omega)

/-- A frame that is present and fails the CRC check is skipped whole, whatever its version (42_deframer.md rule R196). -/
theorem decodeFrom_badCrc {buf : Bytes} {i n : Nat} (hfield : rdLe32 buf (i + 4) = n) (hmin : 4 ≤ n)
    (hpresent : i + 8 + n ≤ buf.length) (hcrc : crcMatches buf i n = false) :
    decodeFrom buf i = .notFound (i + 8 + n) .crc := by
  rw [decodeFrom, hfield, if_neg (by omega), if_neg (by omega), if_neg (by omega), if_pos hcrc,
    Nat.min_eq_left hpresent]

/-! ### A single flipped bit -/

theorem xor_bit_ne {b : Nat} (hb : b < 8) (x : Byte) : x ^^^ (1#8 <<< b) ≠ x := by
  intro h
  have hbit := congrArg (BitVec.getLsbD · b) h
  simp [hb] at hbit

/-- Settles O30: the flip leaves the magic and the length field as they are and fails the CRC check. -/
theorem singleBitFlipIsDiscarded : Obligations.SingleBitFlipIsDiscarded := by
  intro magic fl cmd rest p b hlt hfirst hlast hb
  have hcrc := crcMatches_modify (xor_bit_ne hb) (wireFrame_length ..) hlast
    (crcMatches_wireFrame magic (rest.length + 4) fl cmd rest)
  have hfield := (rdLe32_modify_of_le _ (· ^^^ (1#8 <<< b)) hfirst).trans
    (rdLe32_wireFrame_alone magic (rest.length + 4) fl cmd rest hlt)
  rw [decodeAt_magic _ _ 0 (by simp) (magicAt_zero_modify _ (by omega) (magicAt_wireFrame ..)),
    decodeFrom_badCrc hfield (by omega) (by simp; omega) hcrc]
  congr 1
  omega

end Sys2Proof.Machine
end

section
/-! The family of 41_framer.md. What ENCODE answers without room or with another version, the status that each operation leaves,
and the deframer on a frame that stands alone. -/

namespace Sys2Proof.Machine

/-! ### A frame comes back -/

/-- A frame of version 1 and exact length, alone in the buffer, is found whole (42_deframer.md rules R192 to R199). -/
theorem decodeAt_wireFrame (magic : Word) (fl cmd : Byte) (rest : Bytes) (hlt : rest.length + 4 < 2 ^ 32)
    (hver : versionOk fl = true) :
    decodeAt (wireFrame magic (rest.length + 4) fl cmd rest) magic =
      .found ⟨fl, cmd, rest, false⟩ (wireFrame magic (rest.length + 4) fl cmd rest).length := by
  have hfrom := decodeFrom_frame [] magic fl cmd rest [] hlt
  rw [if_pos hver, List.nil_append, List.append_nil, List.length_nil, Nat.zero_add] at hfrom
  rw [decodeAt_magic _ _ 0 (by simp) (magicAt_wireFrame ..), hfrom, wireFrame_length]

/-- ENCODE's OR puts version 1 into flags whose version field is clear (41_framer.md rule R161). -/
theorem versionOk_or_one {flags : Byte} (h : flags.extractLsb' 0 2 = 0#2) : versionOk (flags ||| 1#8) = true := by
  rw [versionOk_iff, BitVec.extractLsb'_or, h]
  rfl

/-- What ENCODE answers decodes back whenever its length field counts every byte behind the cmd. -/
theorem execEncode_decodes_back (s : State) (cmd flags : Byte) (body : Bytes) (err : Option Byte) (cap : Word)
    (hflags : flags.extractLsb' 0 2 = 0#2)
    (hexact : lengthField s.cfg.errLenMode body err = (err.toList ++ body).length + 4)
    (hfit : frameSize body err ≤ cap.toNat) :
    ∃ (f : Bytes) (t : State), exec (.encode cmd flags body err 1#8 cap) s = .next t ∧
      t.response = some ⟨.ok, .none, .frame f⟩ ∧ f.length = (err.toList ++ body).length + 12 ∧
      decodeAt f s.cfgMagic = .found ⟨flags ||| 1#8, cmd, err.toList ++ body, false⟩ f.length := by
  have hlt : (err.toList ++ body).length + 4 < 2 ^ 32 := by
    have hlen := lengthField_lt_size s.cfg.errLenMode body err
    have hcap := cap.isLt
    omega
  have henc := execEncode_fits s cmd flags body err cap hfit
  rw [hexact] at henc
  exact ⟨_, _, henc, rfl, wireFrame_length .., decodeAt_wireFrame _ _ _ _ hlt (versionOk_or_one hflags)⟩

/-- Settles O37: without an error code, and with one in EXACT mode, the length field counts every byte behind the cmd. -/
theorem encodeDecodeRoundTrip : Obligations.EncodeDecodeRoundTrip := by
  refine fun s cmd flags body cap hflags => ⟨fun hfit => ?_, fun e hmode hfit => ?_⟩
  · exact execEncode_decodes_back s cmd flags body none cap hflags rfl hfit
  · have hexact : lengthField s.cfg.errLenMode body (some e) = body.length + 5 := by rw [hmode]; rfl
    exact execEncode_decodes_back s cmd flags body (some e) cap hflags hexact hfit

/-! ### The encoder's refusals -/

theorem encodeFrame_version {mode : ErrLenMode} {magic : Word} {cmd flags : Byte} {body : Bytes} {err : Option Byte}
    {version : Byte} {cap : Nat} (h : version ≠ Config.protoVersionByte) :
    encodeFrame mode magic cmd flags body err version cap = .error .version := if_pos h

/-- A frame within a 32-bit capacity has a length field that fits, so LENGTH is never the reason (41_framer.md rule R165). -/
theorem encodeFrame_error_ne_length {mode : ErrLenMode} {magic : Word} {cmd flags : Byte} {body : Bytes}
    {err : Option Byte} {version : Byte} {cap : Word} {r : Reason}
    (h : encodeFrame mode magic cmd flags body err version cap.toNat = .error r) : r ≠ .length := by
  by_cases hver : version = Config.protoVersionByte
  · subst hver
    rw [encodeFrame_version_one_error h]
    decide
  · cases (encodeFrame_version hver).symm.trans h
    decide

/-- An ENCODE that the encoder refuses gives no frame and writes STATUS alone (41_framer.md rule R164). -/
theorem execEncode_refused {s : State} {cmd flags : Byte} {body : Bytes} {err : Option Byte} {version : Byte}
    {cap : Word} {r : Reason} (h : s.encodeWith cmd flags body err version cap.toNat = .error r) :
    exec (.encode cmd flags body err version cap) s =
      .next { s with status := ⟨.argsError, r⟩, response := some ⟨.argsError, r, .none⟩ } := by
  calc exec (.encode cmd flags body err version cap) s
      = finishEncode s (s.encodeWith cmd flags body err version cap.toNat) := rfl
    _ = _ := by rw [h]; rfl

theorem execEncode_small (s : State) (cmd flags : Byte) (body : Bytes) (err : Option Byte) (cap : Word)
    (h : cap.toNat < frameSize body err) :
    exec (.encode cmd flags body err 1#8 cap) s =
      .next { s with status := ⟨.argsError, .capacity⟩, response := some ⟨.argsError, .capacity, .none⟩ } :=
  execEncode_refused (encodeFrame_small _ _ _ _ _ _ _ h)

/-- STATUS after an operation of the ENCODE family. -/
theorem finishEncode_status {s t : State} {e : Except Reason Bytes} (h : finishEncode s e = .next t) :
    t.status = ⟨.ok, .none⟩ ∨ ∃ r, e = .error r ∧ t.status = ⟨.argsError, r⟩ := by
  cases e with
  | ok f => cases h; exact .inl rfl
  | error r => cases h; exact .inr ⟨r, rfl, rfl⟩

theorem frameSize_eq (body : Bytes) (err : Option Byte) :
    frameSize body err = body.length + 12 + (if err = none then 0 else 1) := by
  cases err <;> rfl

/-- Settles O32: the version is checked first, then the capacity, and a body that passes both has a length that fits. -/
theorem encodeRefusesInOrder : Obligations.EncodeRefusesInOrder := by
  refine fun s cmd flags version body err cap => ⟨fun hver => ?_, fun hver hsmall => ?_, fun t ht => ?_⟩
  · exact execEncode_refused (encodeFrame_version hver)
  · subst hver
    exact execEncode_small s cmd flags body err cap (hsmall.trans_eq (frameSize_eq body err).symm)
  · obtain hok | ⟨r, he, hst⟩ := finishEncode_status ht
    · rw [hok]
      decide
    · rw [hst]
      exact encodeFrame_error_ne_length he

/-- Settles O34: each is the ENCODE it stands for, which answers its frame or has no room. -/
theorem convenienceEncodingsComplete : Obligations.ConvenienceEncodingsComplete := by
  refine ⟨fun a => ⟨rfl, rfl, rfl⟩, fun s cmd code body cap => ⟨fun hfit => ⟨?_, ?_⟩, fun hfit => ?_,
    fun hsmall => ⟨?_, ?_⟩, fun hsmall => ?_⟩⟩
  · rw [exec_encRespOk]
    exact execEncode_fits s cmd 0xC0#8 body none cap hfit
  · rw [exec_encReport]
    exact execEncode_fits s cmd 0xE0#8 body none cap hfit
  · rw [exec_encRespErr, ← lengthField_error _ body code]
    exact execEncode_fits s cmd 0x80#8 body (some code) cap hfit
  · rw [exec_encRespOk]
    exact execEncode_small s cmd 0xC0#8 body none cap hsmall
  · rw [exec_encReport]
    exact execEncode_small s cmd 0xE0#8 body none cap hsmall
  · rw [exec_encRespErr]
    exact execEncode_small s cmd 0x80#8 body (some code) cap hsmall

/-! ### The statuses of each operation -/

theorem encode_status_possible {cmd flags : Byte} {body : Bytes} {err : Option Byte} {version : Byte} {cap : Word}
    {s t : State} (h : exec (.encode cmd flags body err version cap) s = .next t) :
    (t.status.last, t.status.reason) ∈ possibleStatuses (.encode cmd flags body err version cap) := by
  obtain hok | ⟨r, he, hst⟩ := finishEncode_status h
  · simp [hok, possibleStatuses]
  · obtain ⟨rfl, -⟩ | ⟨rfl, -⟩ | ⟨rfl, -⟩ := encodeFrame_error he
    · simp [hst, possibleStatuses]
    · simp [hst, possibleStatuses]
    · simp [hst, possibleStatuses]

/-- The convenience encodings have version 1, so CAPACITY is their only error. -/
theorem finishEncode_version_one_status {s t : State} {cmd flags : Byte} {body : Bytes} {err : Option Byte} {cap : Word}
    (h : finishEncode s (s.encodeWith cmd flags body err Config.protoVersionByte cap.toNat) = .next t) :
    (t.status.last, t.status.reason) ∈ [(Status.ok, Reason.none), (Status.argsError, Reason.capacity)] := by
  obtain hok | ⟨r, he, hst⟩ := finishEncode_status h
  · simp [hok]
  · simp [hst, encodeFrame_version_one_error he]

/-- The STATUS of an outcome of the decode function (42_deframer.md rule R203, 43_accumulator.md rule R236). -/
def Decoded.status : Decoded → StatusReg
  | .found _ _ => ⟨.ok, .none⟩
  | .notFound _ why => ⟨.notFound, why⟩
  | .incomplete => ⟨.incomplete, .none⟩

theorem execDecodeAt_status {buffer : Bytes} {magic : Word} {s t : State} (h : execDecodeAt buffer magic s = .next t) :
    t.status = (decodeAt buffer magic).status := by
  unfold execDecodeAt at h
  split at h
  · next hd => cases h; rw [hd]; rfl
  · next hd => cases h; rw [hd]; rfl
  · next hd => cases h; rw [hd]; rfl

theorem execTryDecode_status {s t : State} (h : execTryDecode s = .next t) :
    t.status = (decodeAt s.acc s.cfgMagic).status := by
  obtain ⟨u, hu, ⟨m, c, hd, hst, -⟩ | ⟨k, why, hd, hst, -⟩ | ⟨hd, hst, -⟩⟩ := execTryDecode_next s
  · cases hu.symm.trans h; rw [hd]; exact hst
  · cases hu.symm.trans h; rw [hd]; exact hst
  · cases hu.symm.trans h; rw [hd]; exact hst

/-- NOT_FOUND has four reasons (60_exceptions.md rule R321). -/
theorem notFound_mem_decodeStatuses {why : Reason} (h : legalStatus .notFound why = true) :
    (.notFound, why) ∈ decodeStatuses := by
  cases why with
  | noMagic | crc | badLength | badVersion => decide
  | _ => cases h

theorem decodeAt_status_mem (buf : Bytes) (magic : Word) :
    ((decodeAt buf magic).status.last, (decodeAt buf magic).status.reason) ∈ decodeStatuses := by
  have hdec := decodeAt_ok buf magic
  cases hd : decodeAt buf magic with
  | found m c => simp [Decoded.status, decodeStatuses]
  | notFound k why =>
    rw [hd] at hdec
    obtain ⟨-, -, hlegal⟩ := hdec
    exact notFound_mem_decodeStatuses hlegal
  | incomplete => simp [Decoded.status, decodeStatuses]

theorem push_status_possible {data : Bytes} {s t : State} (h : execPush data s = .next t) :
    (t.status.last, t.status.reason) ∈ possibleStatuses (.push data) := by
  obtain ⟨u, hu, ⟨-, -, hst⟩ | ⟨-, -, hst⟩⟩ := execPush_next data s
  · cases hu.symm.trans h
    simp [hst, possibleStatuses]
  · cases hu.symm.trans h
    simp [hst, possibleStatuses]

theorem illegalOp_status {s t : State} (h : illegalOp s = .next t) :
    (t.status.last, t.status.reason) ∈ [(Status.illegalOp, Reason.none)] := by
  cases h
  exact List.mem_singleton_self _

theorem mem_dispatchStatuses {st : Status} {r : Reason} (h : dispatchStatus st r = true) :
    (st, r) ∈ dispatchStatuses := by
  unfold dispatchStatus at h
  split at h
  case h_10 => cases h
  all_goals decide

theorem exec_status_of_dispatches {i : Instr} (hi : dispatches i = true) {s t : State} (h : exec i s = .next t) :
    (t.status.last, t.status.reason) ∈ dispatchStatuses := by
  have hd := exec_dispatchOk i s hi
  rw [h] at hd
  obtain ⟨made, sent, ex, st, r, res, -, -, hst, rfl⟩ := hd
  exact mem_dispatchStatuses hst

/-- Every operation but RDREG leaves a STATUS of its row (60_exceptions.md rule R323). -/
theorem exec_status_possible {i : Instr} {s t : State} (h : exec i s = .next t) (hrdreg : ∀ x, i ≠ .rdreg x) :
    (t.status.last, t.status.reason) ∈ possibleStatuses i := by
  cases i
  case init => cases h; exact List.mem_singleton_self _
  case encode => exact encode_status_possible h
  case encRespOk => exact finishEncode_version_one_status h
  case encReport => exact finishEncode_version_one_status h
  case encRespErr => exact finishEncode_version_one_status h
  case decodeAt => rw [execDecodeAt_status h]; exact decodeAt_status_mem _ _
  case push => exact push_status_possible h
  case tryDecode => rw [execTryDecode_status h]; exact decodeAt_status_mem _ _
  case rdreg x => exact absurd rfl (hrdreg x)
  case illegal0A => exact illegalOp_status h
  case illegal0C => exact illegalOp_status h
  case illegal10 => exact illegalOp_status h
  case illegal20 => exact illegalOp_status h
  case illegal40 => exact illegalOp_status h
  case illegal80 => exact illegalOp_status h
  all_goals exact exec_status_of_dispatches rfl h

/-- RDREG answers a status of its row and leaves STATUS as it was (43_accumulator.md rule R240). -/
theorem execRdreg_answer {x : Byte} {s t : State} (h : execRdreg x s = .next t) :
    ∃ r : Response, t.response = some r ∧ (r.status, r.reason) ∈ possibleStatuses (.rdreg x) ∧ t.status = s.status := by
  unfold execRdreg at h
  split at h
  · cases h
    exact ⟨_, rfl, by simp [possibleStatuses], rfl⟩
  · cases h
    exact ⟨_, rfl, by simp [possibleStatuses], rfl⟩

/-- Settles O17: RDREG apart, STATUS holds what the operation returns, and that is of its row. -/
theorem statusesOfEachOperation : Obligations.StatusesOfEachOperation := by
  intro i s t h
  by_cases hrdreg : ∀ x, i ≠ .rdreg x
  · obtain ⟨r, hres, hst⟩ := exec_status_eq_response h hrdreg
    have hrow := exec_status_possible h hrdreg
    rw [hst] at hrow
    exact ⟨r, hres, hrow, fun _ => hst, fun x hx => absurd hx (hrdreg x)⟩
  · obtain ⟨x, rfl⟩ := by simpa using hrdreg
    obtain ⟨r, hres, hrow, hst⟩ := execRdreg_answer h
    exact ⟨r, hres, hrow, fun hne => absurd rfl (hne x), fun _ _ => hst⟩

end Sys2Proof.Machine
end

section
/-! The family of 42_deframer.md. What the decode function answers is said once for each of its branches, and what TRY_DECODE
leaves once for each answer; bytes pushed behind a magic do not move it, so a stalled stream stays stalled and a split frame
comes together. -/

namespace Sys2Proof.Machine

/-! ### The branches of the decode function -/

theorem decodeFrom_headerMissing {buf : Bytes} {i : Nat} (h : buf.length < i + 12) : decodeFrom buf i = .incomplete := by
  rw [decodeFrom, if_pos (by omega)]

/-- A frame whose span ends past the buffer is INCOMPLETE, whether its header has arrived or not (42_deframer.md rules R194,
R195). -/
theorem decodeFrom_notPresent {buf : Bytes} {i : Nat} (h : buf.length < i + 8 + rdLe32 buf (i + 4)) :
    decodeFrom buf i = .incomplete := by
  by_cases hheader : buf.length < i + 12
  · exact decodeFrom_headerMissing hheader
  · rw [decodeFrom, if_neg (by omega), if_pos (by omega)]

theorem decodeFrom_badLength {buf : Bytes} {i n : Nat} (hfield : rdLe32 buf (i + 4) = n) (hheader : i + 12 ≤ buf.length)
    (hpresent : i + 8 + n ≤ buf.length) (hmin : n < 4) : decodeFrom buf i = .notFound (i + 8 + n) .badLength := by
  rw [decodeFrom, hfield, if_neg (by omega), if_neg (by omega), if_pos hmin]

theorem decodeFrom_badVersion {buf : Bytes} {i n : Nat} (hfield : rdLe32 buf (i + 4) = n) (hmin : 4 ≤ n)
    (hpresent : i + 8 + n ≤ buf.length) (hcrc : crcMatches buf i n = true) (hver : versionOk (byteAt buf (i + 8)) = false) :
    decodeFrom buf i = .notFound (i + 8 + n) .badVersion := by
  rw [decodeFrom, hfield, if_neg (by omega), if_neg (by omega), if_neg (by omega),
    if_neg (by simp [hcrc] : ¬ crcMatches buf i n = false), if_pos hver]

theorem crcMatches_eq_true_iff {buf : Bytes} {i n : Nat} :
    crcMatches buf i n = true ↔ (crc16 (slice buf i (i + 6 + n))).toNat = rdLe16 buf (i + 6 + n) := decide_eq_true_iff

theorem crcMatches_eq_false_iff {buf : Bytes} {i n : Nat} :
    crcMatches buf i n = false ↔ (crc16 (slice buf i (i + 6 + n))).toNat ≠ rdLe16 buf (i + 6 + n) :=
  decide_eq_false_iff_not

theorem versionOk_eq_false_iff {b : Byte} : versionOk b = false ↔ b.extractLsb' 0 2 ≠ 1#2 := decide_eq_false_iff_not

/-- Settles O35: the first two steps, and from the least offset of the magic each branch by its own lemma. -/
theorem decodeAtTakesItsStepsInOrder : Obligations.DecodeAtTakesItsStepsInOrder := by
  refine fun buf magic => ⟨decodeAt_short buf magic, decodeAt_noMagic buf magic, ?_⟩
  rintro i len hmin hmagic rfl
  rw [decodeAt_magic buf magic i hmin hmagic]
  refine ⟨decodeFrom_headerMissing, fun _ => decodeFrom_notPresent, decodeFrom_badLength rfl, ?_, ?_, ?_⟩
  · intro hpresent hlen hcrc
    exact decodeFrom_badCrc rfl hlen hpresent (crcMatches_eq_false_iff.2 hcrc)
  · intro hpresent hlen hcrc hver
    exact decodeFrom_badVersion rfl hlen hpresent (crcMatches_eq_true_iff.2 hcrc) (versionOk_eq_false_iff.2 hver)
  · intro hpresent hlen hcrc hver
    rw [decodeFrom_present rfl hlen hpresent (versionOk_iff.2 hver), if_pos (crcMatches_eq_true_iff.2 hcrc)]
    rfl

/-- Settles O36: DECODE_AT answers by the decode function's three outcomes. -/
theorem decodeAtAnswersTheOutcome : Obligations.DecodeAtAnswersTheOutcome := by
  refine ⟨fun _ => rfl, fun buffer magic s => ⟨fun m c hd => ?_, fun k why hd => ?_, fun hd => ?_⟩⟩
  all_goals
    rw [exec, execDecodeAt, hd]
    rfl

/-! ### What PUSH and TRY_DECODE leave -/

/-- A push that fits, with its whole next state (43_accumulator.md rule R233). -/
theorem exec_push_fits {s : State} {data : Bytes} (h : s.acc.length + data.length ≤ s.cfg.accCapacity) :
    exec (.push data) s = .next { s with
      acc := s.acc ++ data
      lastSkip := 0#32
      status := ⟨.ok, .none⟩
      response := some ⟨.ok, .none, .none⟩ } := by
  rw [exec, execPush, if_neg (by omega)]
  rfl

/-- TRY_DECODE of a found frame, with its whole next state (43_accumulator.md rule R236). -/
theorem exec_tryDecode_found {s : State} {m : Message} {c : Nat} (hd : decodeAt s.acc s.cfgMagic = .found m c) :
    exec .tryDecode s = .next { s with
      acc := s.acc.drop c
      msgValid := true
      msg := m
      lastSkip := BitVec.ofNat 32 c
      status := ⟨.ok, .none⟩
      response := some ⟨.ok, .none, .message m.flags m.cmd m.body⟩ } := by
  rw [exec, execTryDecode, hd, ← slice_to_end]
  rfl

/-- TRY_DECODE of an incomplete frame, with its whole next state (43_accumulator.md rule R236). -/
theorem exec_tryDecode_incomplete {s : State} (hd : decodeAt s.acc s.cfgMagic = .incomplete) :
    exec .tryDecode s = .next { s with
      msgValid := false
      msg := Message.cleared
      lastSkip := 0#32
      status := ⟨.incomplete, .none⟩
      response := some ⟨.incomplete, .none, .none⟩ } := by
  rw [exec, execTryDecode, hd]
  rfl

/-! ### Bytes behind a magic -/

/-- The first magic of a buffer is settled by the bytes up to its end: more bytes behind it neither move nor hide it. -/
theorem magicAt_append_iff {a : Bytes} {magic : Word} {i : Nat} (b : Bytes) (hi : i + 4 ≤ a.length) :
    magicAt (a ++ b) magic i ↔ magicAt a magic i := by
  have hslice : ∀ k, k ≤ i → slice (a ++ b) k (k + 4) = slice a k (k + 4) := fun k hk =>
    slice_append_left a b k (k + 4) (by omega)
  have hlen : i + 4 ≤ (a ++ b).length := by rw [List.length_append]; omega
  constructor
  · rintro ⟨-, hmagic, hfirst⟩
    exact ⟨hi, hslice i le_rfl ▸ hmagic, fun k hk => hslice k hk.le ▸ hfirst k hk⟩
  · rintro ⟨-, hmagic, hfirst⟩
    exact ⟨hlen, (hslice i le_rfl).trans hmagic, fun k hk => (hslice k hk.le).trans_ne (hfirst k hk)⟩

/-! ### The stalled stream -/

/-- The deframer waits for the rest of a frame that is longer than the accumulator can hold. -/
theorem State.stalled.decodeAt_eq {s : State} (h : s.stalled) (hs : s.Inv) : decodeAt s.acc s.cfgMagic = .incomplete := by
  obtain ⟨i, hmagic, -, hlong⟩ := h
  by_cases hshort : s.acc.length < 12
  · exact decodeAt_short _ _ hshort
  · rw [decodeAt_magic _ _ i (by omega) hmagic]
    exact decodeFrom_notPresent (hs.accFits.trans_lt hlong)

/-- The stall rests on the configuration, the magic and the bytes up to the end of the first magic's length
field; what keeps these keeps the stall. -/
theorem State.stalled.of_append {s t : State} (h : s.stalled) (b : Bytes) (hcfg : t.cfg = s.cfg)
    (hmagic : t.cfgMagic = s.cfgMagic) (hacc : t.acc = s.acc ++ b) : t.stalled := by
  obtain ⟨i, hat, hfield, hlong⟩ := h
  refine ⟨i, ?_, ?_, ?_⟩
  · rw [hacc, hmagic]
    exact (magicAt_append_iff b (by omega)).2 hat
  · rw [hacc, List.length_append]
    omega
  · rwa [hacc, hcfg, rdLe32_append_left s.acc b (i + 4) (by omega)]

/-- On a stalled stream no instruction but INIT removes a byte: PUSH appends, and everything else leaves the accumulator. -/
theorem exec_acc_of_stalled {i : Instr} {s t : State} (hs : s.Inv) (hst : s.stalled) (h : exec i s = .next t)
    (hinit : ∀ m, i ≠ .init m) : ∃ b, t.acc = s.acc ++ b := by
  by_cases hpush : ∃ data, i = .push data
  · obtain ⟨data, rfl⟩ := hpush
    obtain ⟨-, hacc⟩ | ⟨-, hacc⟩ := exec_push_acc h
    · exact ⟨data, hacc⟩
    · exact ⟨[], by rw [hacc, List.append_nil]⟩
  · have hsame : t.acc = s.acc := by
      by_cases htry : i = .tryDecode
      · subst htry
        cases (exec_tryDecode_incomplete (hst.decodeAt_eq hs)).symm.trans h
        rfl
      · exact exec_acc h hinit (not_exists.1 hpush) htry
    exact ⟨[], by rw [hsame, List.append_nil]⟩

/-- Settles O41: the deframer answers INCOMPLETE on a stalled stream, so no operation but INIT removes a byte of it, and
appended bytes do not end the stall. -/
theorem stallEndsOnlyByInit : Obligations.StallEndsOnlyByInit := by
  refine fun s hs hst => ⟨?_, fun i t h hinit => ?_, fun data hfull hdata => ?_, fun m => ⟨_, rfl, rfl⟩⟩
  · exact ⟨_, exec_tryDecode_incomplete (hst.decodeAt_eq hs), rfl, rfl⟩
  · obtain ⟨b, hacc⟩ := exec_acc_of_stalled hs hst h hinit
    exact hst.of_append b (exec_cfg h) (exec_cfgMagic h hinit) hacc
  · have hlen := List.length_pos_of_ne_nil hdata
    obtain ⟨t, ht, ⟨hfit, -⟩ | ⟨-, honly, hstatus⟩⟩ := execPush_next data s
    · omega
    · obtain ⟨a, rfl⟩ := honly.eq_answered
      exact ⟨_, ht, hstatus, rfl⟩

/-! ### Forward progress -/

/-- Settles O24: what each outcome consumes is bounded below by `decodeAt_ok`. -/
theorem tryDecodeMakesProgress : Obligations.TryDecodeMakesProgress := by
  intro s t h
  have hdec := decodeAt_ok s.acc s.cfgMagic
  obtain ⟨u, hu, ⟨m, c, hd, hstatus, hst⟩ | ⟨k, why, hd, hstatus, hst⟩ | ⟨-, hstatus, hst⟩⟩ := execTryDecode_next s
  · cases hu.symm.trans h
    obtain ⟨a, rfl⟩ := hst.eq_answered
    rw [hd] at hdec
    obtain ⟨hmin, hc, -⟩ := hdec
    refine .inl ⟨hstatus, rfl, ?_⟩
    simp only [State.answered, List.length_drop]
    omega
  · cases hu.symm.trans h
    obtain ⟨a, rfl⟩ := hst.eq_answered
    rw [hd] at hdec
    obtain ⟨hmin, hk, hlegal⟩ := hdec
    have hshrink : (s.acc.drop k).length + leastSkip why ≤ s.acc.length := by
      rw [List.length_drop]
      omega
    cases why with
    | noMagic => exact .inr (.inl ⟨hstatus, hshrink⟩)
    | badLength => exact .inr (.inr (.inl ⟨hstatus, hshrink⟩))
    | crc => exact .inr (.inr (.inr (.inl ⟨hstatus, hshrink⟩)))
    | badVersion => exact .inr (.inr (.inr (.inr (.inl ⟨hstatus, hshrink⟩))))
    | _ => cases hlegal
  · cases hu.symm.trans h
    obtain ⟨a, rfl⟩ := hst.eq_answered
    exact .inr (.inr (.inr (.inr (.inr ⟨hstatus, rfl⟩))))

/-- TRY_DECODE answers INCOMPLETE or shrinks the accumulator by 8 bytes at least (43_accumulator.md rule R238). -/
theorem exec_tryDecode_progress {s t : State} (h : exec .tryDecode s = .next t) :
    t.status = ⟨.incomplete, .none⟩ ∨ (t.status.last ≠ .incomplete ∧ t.acc.length + 8 ≤ s.acc.length) := by
  obtain ⟨hst, -, hlen⟩ | ⟨hst, hlen⟩ | ⟨hst, hlen⟩ | ⟨hst, hlen⟩ | ⟨hst, hlen⟩ | ⟨hst, -⟩ := tryDecodeMakesProgress s t h
  case inr.inr.inr.inr.inr => exact .inl hst
  all_goals exact .inr ⟨by simp [hst], by omega⟩

/-- `n` TRY_DECODE operations answer something other than INCOMPLETE, and the next one answers INCOMPLETE. -/
def State.drainsAfter (s : State) (n : Nat) : Prop :=
  ∃ t u : State, afterTryDecodes n s = some t ∧ exec .tryDecode t = .next u ∧ u.status = ⟨.incomplete, .none⟩ ∧
    ∀ (k : Nat) (v w : State), k < n → afterTryDecodes k s = some v → exec .tryDecode v = .next w →
      w.status.last ≠ .incomplete

theorem State.drainsAfter_zero {s t : State} (h : exec .tryDecode s = .next t) (hst : t.status = ⟨.incomplete, .none⟩) :
    s.drainsAfter 0 :=
  ⟨s, t, rfl, h, hst, fun k _ _ hk => absurd hk (Nat.not_lt_zero k)⟩

theorem afterTryDecodes_succ {s t : State} (h : exec .tryDecode s = .next t) (n : Nat) :
    afterTryDecodes (n + 1) s = afterTryDecodes n t := by
  rw [afterTryDecodes, h]

theorem State.drainsAfter.succ {s t : State} {n : Nat} (hn : t.drainsAfter n) (h : exec .tryDecode s = .next t)
    (hst : t.status.last ≠ .incomplete) : s.drainsAfter (n + 1) := by
  obtain ⟨x, u, hx, hu, hincomplete, hbefore⟩ := hn
  refine ⟨x, u, (afterTryDecodes_succ h n).trans hx, hu, hincomplete, fun k v w hk hv hw => ?_⟩
  cases k with
  | zero =>
    cases hv
    cases h.symm.trans hw
    exact hst
  | succ k => exact hbefore k v w (by omega) ((afterTryDecodes_succ h k).symm.trans hv) hw

/-- Each operation before the first INCOMPLETE takes 8 bytes, so the accumulator's length bounds their number. -/
theorem State.exists_drainsAfter (s : State) : ∃ n, n ≤ s.acc.length / 8 ∧ s.drainsAfter n := by
  obtain ⟨t, h, -⟩ := execTryDecode_next s
  obtain hst | ⟨hst, hlen⟩ := exec_tryDecode_progress h
  · exact ⟨0, Nat.zero_le _, drainsAfter_zero h hst⟩
  · obtain ⟨n, hn, hdrains⟩ := exists_drainsAfter t
    exact ⟨n + 1, by omega, hdrains.succ h hst⟩
termination_by s.acc.length

/-- Settles O25: the number of operations is that of `exists_drainsAfter`. -/
theorem drainEndsInIncomplete : Obligations.DrainEndsInIncomplete := by
  intro s
  obtain ⟨n, hn, t, u, hdrains⟩ := s.exists_drainsAfter
  exact ⟨n, t, u, hn, hdrains⟩

/-! ### Frames in the accumulator -/

/-- Settles O38: the deframer finds the frame at the first magic, and the discard takes the noise and the frame. -/
theorem frameBehindNoiseIsDelivered : Obligations.FrameBehindNoiseIsDelivered := by
  intro s noise rest post fl cmd hs hver hacc hmagic
  have hlen : s.acc.length = noise.length + (rest.length + 12) + post.length := by
    rw [hacc, List.length_append, List.length_append, wireFrame_length]
  have hlt := hs.acc_lt
  have hdecode : decodeAt s.acc s.cfgMagic = .found ⟨fl, cmd, rest, false⟩ (noise.length + (rest.length + 12)) := by
    rw [decodeAt_magic _ _ _ (by omega) hmagic, hacc, decodeFrom_frame _ _ _ _ _ _ (by omega),
      if_pos (versionOk_iff.2 hver)]
  have hdrop : s.acc.drop (noise.length + (rest.length + 12)) = post := by
    rw [hacc]
    exact List.drop_left' (by simp)
  rw [exec_tryDecode_found hdecode, hdrop]

/-- A frame that is cut short is INCOMPLETE: its header has not arrived, or its length field counts bytes that have not
(42_deframer.md rules R191, R195). -/
theorem decodeAt_wireFrame_take (magic : Word) (fl cmd : Byte) (rest : Bytes) {k : Nat} (hlt : rest.length + 4 < 2 ^ 32)
    (hk : k < rest.length + 12) :
    decodeAt ((wireFrame magic (rest.length + 4) fl cmd rest).take k) magic = .incomplete := by
  have hlen : ((wireFrame magic (rest.length + 4) fl cmd rest).take k).length = k := by
    rw [List.length_take, wireFrame_length]
    omega
  have hsplit := List.take_append_drop k (wireFrame magic (rest.length + 4) fl cmd rest)
  by_cases hshort : k < 12
  · exact decodeAt_short _ _ (by omega)
  · have hmagic : magicAt ((wireFrame magic (rest.length + 4) fl cmd rest).take k) magic 0 := by
      rw [← magicAt_append_iff _ (by omega), hsplit]
      exact magicAt_wireFrame ..
    have hfield : rdLe32 ((wireFrame magic (rest.length + 4) fl cmd rest).take k) 4 = rest.length + 4 := by
      rw [← rdLe32_append_left _ _ 4 (by omega), hsplit]
      exact rdLe32_wireFrame_alone _ _ _ _ _ hlt
    rw [decodeAt_magic _ _ 0 (by omega) hmagic]
    exact decodeFrom_notPresent (by rw [Nat.zero_add, hfield]; omega)

/-- R9's upper bound on ACC_CAPACITY. -/
theorem accCapacity_lt {c : Config} (hw : c.wf = true) : c.accCapacity < 2 ^ 32 := by
  simp only [Config.wf, Bool.and_eq_true, decide_eq_true_eq] at hw
  obtain ⟨⟨⟨-, hcap⟩, -⟩, -⟩ := hw
  exact hcap

/-- Settles O39: the first part is INCOMPLETE, and the second part makes the frame whole. -/
theorem splitFrameIsDeliveredOnce : Obligations.SplitFrameIsDeliveredOnce := by
  intro s rest fl cmd k hs hempty hver hfit hpos hk
  have hcap := accCapacity_lt hs.cfgWf
  have hlen := wireFrame_length s.cfgMagic (rest.length + 4) fl cmd rest
  have hwhole := decodeAt_wireFrame s.cfgMagic fl cmd rest (by omega) (versionOk_iff.2 hver)
  have hcut := decodeAt_wireFrame_take s.cfgMagic fl cmd rest (by omega) hk
  generalize wireFrame s.cfgMagic (rest.length + 4) fl cmd rest = f at *
  refine ⟨_, _, _, _, exec_push_fits ?_, exec_tryDecode_incomplete ?_, rfl, rfl, rfl, exec_push_fits ?_,
    exec_tryDecode_found (m := ⟨fl, cmd, rest, false⟩) (c := f.length) ?_, rfl, rfl, rfl, ?_, ?_⟩
  · rw [hempty, List.length_nil, List.length_take]
    omega
  · simpa [hempty] using hcut
  · simp [hempty]
    omega
  · simpa [hempty] using hwhole
  · rw [hlen]
  · simp [hempty]

end Sys2Proof.Machine
end

section
/-! The family of 43_accumulator.md. The whole next state of INIT, PUSH, TRY_DECODE and RDREG, one lemma for each outcome
that the family of 42_deframer.md has not given yet. -/

namespace Sys2Proof.Machine

/-! ### INIT -/

/-- Settles O20: the decoder evaluates to INIT, and INIT's writes leave no element of the engine's state. -/
theorem initWritesEveryElement : Obligations.InitWritesEveryElement := ⟨fun _ => rfl, fun _ _ => rfl⟩

/-! ### PUSH -/

/-- A push past the capacity writes STATUS and the response alone (43_accumulator.md rule R233). -/
theorem exec_push_full {s : State} {data : Bytes} (h : s.acc.length + data.length > s.cfg.accCapacity) :
    exec (.push data) s =
      .next { s with status := ⟨.bufferFull, .none⟩, response := some ⟨.bufferFull, .none, .none⟩ } := by
  rw [exec, execPush, if_pos h, raise_eq]

/-- Settles O21: the capacity decides between the two outcomes. -/
theorem pushAppendsAllOrNothing : Obligations.PushAppendsAllOrNothing :=
  ⟨fun _ => rfl, fun _ _ => ⟨exec_push_fits, exec_push_full⟩⟩

/-! ### TRY_DECODE -/

/-- TRY_DECODE discards only a non-empty prefix; dropping an empty one is the same (43_accumulator.md rule R236). -/
theorem State.discard_if_pos (s : State) (k : Nat) : (if k > 0 then s.discard k else s) = s.setAcc (s.acc.drop k) := by
  split
  · rw [State.discard, slice_to_end]
  · next hk =>
    obtain rfl : k = 0 := by omega
    rfl

/-- TRY_DECODE of no frame, with its whole next state (43_accumulator.md rule R236). -/
theorem exec_tryDecode_notFound {s : State} {k : Nat} {why : Reason}
    (hd : decodeAt s.acc s.cfgMagic = .notFound k why) :
    exec .tryDecode s = .next { s with
      acc := s.acc.drop k
      msgValid := false
      msg := Message.cleared
      lastSkip := BitVec.ofNat 32 k
      status := ⟨.notFound, why⟩
      response := some ⟨.notFound, why, .none⟩ } := by
  rw [exec, execTryDecode, hd]
  simp only [State.discard_if_pos]
  rfl

/-- Settles O22: each of the deframer's three outcomes by its own lemma. -/
theorem tryDecodeConsumesFront : Obligations.TryDecodeConsumesFront :=
  ⟨fun _ => rfl, fun _ =>
    ⟨fun _ _ => exec_tryDecode_found, fun _ _ => exec_tryDecode_notFound, exec_tryDecode_incomplete⟩⟩

/-! ### RDREG -/

/-- RDREG of a register answers its contents and leaves the engine's state (43_accumulator.md rule R240). -/
theorem exec_rdreg_register {s : State} {x : Byte} {v : Word} (h : registerAt s x = some v) :
    exec (.rdreg x) s = .next { s with response := some ⟨.ok, .none, .value v⟩ } := by
  rw [exec, execRdreg, h]
  rfl

/-- RDREG of a reserved index answers BAD_INDEX and leaves the engine's state (43_accumulator.md rule R240). -/
theorem exec_rdreg_reserved {s : State} {x : Byte} (h : registerAt s x = none) :
    exec (.rdreg x) s = .next { s with response := some ⟨.argsError, .badIndex, .value 0#32⟩ } := by
  rw [exec, execRdreg, h]
  rfl

/-- The register map ends at 0x09 (10_state.md rule R47). -/
theorem registerAt_reserved (s : State) {x : Byte} (hx : 0x0A ≤ x.toNat) : registerAt s x = none := by
  unfold registerAt
  split
  case h_11 => rfl
  all_goals omega

/-- CTRL is 1 in LEGACY mode and 0 in EXACT mode (10_state.md rule R37). -/
theorem ctrlWord_eq (c : Config) : ctrlWord c = if c.errLenMode = .legacy then 1#32 else 0#32 := by
  unfold ctrlWord
  cases c.errLenMode
  · rfl
  · rfl

/-- Under the invariant the message register is at its reset value while `msg_valid` is 0 (10_state.md rule R40). -/
theorem State.Inv.msg_eq_cleared {s : State} (hs : s.Inv) (hv : s.msgValid = false) : s.msg = Message.cleared := by
  simpa [Machine.msgOk, hv] using hs.msgOk

/-- The three message registers read 0 of a cleared message register (43_accumulator.md rule R240, log entry 18). -/
theorem registerAt_msg_cleared {s : State} (hm : s.msg = Message.cleared) {x : Byte}
    (hx : x ∈ [0x07#8, 0x08#8, 0x09#8]) : registerAt s x = some 0#32 := by
  simp only [List.mem_cons, List.not_mem_nil, or_false] at hx
  obtain rfl | rfl | rfl := hx
  · exact congrArg (fun m : Message => some (m.flags.setWidth 32)) hm
  · exact congrArg (fun m : Message => some (m.cmd.setWidth 32)) hm
  · exact congrArg (fun m : Message => some (BitVec.ofNat 32 m.body.length)) hm

/-- Settles O26: the ten registers by the map, the other indices past its end, and the message registers by the
invariant. -/
theorem rdregReadsTheRegisterMap : Obligations.RdregReadsTheRegisterMap :=
  ⟨fun _ => rfl, fun s =>
    ⟨exec_rdreg_register rfl, exec_rdreg_register rfl, exec_rdreg_register rfl,
      exec_rdreg_register (congrArg some (ctrlWord_eq s.cfg)), exec_rdreg_register rfl, exec_rdreg_register rfl,
      exec_rdreg_register rfl, exec_rdreg_register rfl, exec_rdreg_register rfl, exec_rdreg_register rfl,
      fun _ hx => exec_rdreg_reserved (registerAt_reserved s hx),
      fun hs hv _ hx => exec_rdreg_register (registerAt_msg_cleared (hs.msg_eq_cleared hv) hx)⟩⟩

end Sys2Proof.Machine
end

section
/-! The family of 44_dispatch.md. What DISPATCH selects and what it leaves to the host; `split_nul`; the arguments and the
replies of the arms; then, said once for every arm, that dispatching sends one reply and that it can be repeated. -/

namespace Sys2Proof.Machine

/-! ### The arms that are not answered -/

theorem notHandled_eq (s : State) (r : Reason) :
    notHandled s r =
      .next { s with status := ⟨.notHandled, r⟩, response := some ⟨.notHandled, r, .replied false⟩ } :=
  respond_eq ..

/-- Settles O43: each of the three arms is `notHandled` with reason 3. -/
theorem passThroughArmsComplete : Obligations.PassThroughArmsComplete := fun s =>
  have h := notHandled_eq s .passThrough
  ⟨h, h, h⟩

/-- Settles O44: each of the seven arms is `notHandled` with reason 2. -/
theorem unrecognizedArmsComplete : Obligations.UnrecognizedArmsComplete := by
  intro c s i hi
  simp only [List.mem_cons, List.not_mem_nil, or_false] at hi
  obtain rfl | rfl | rfl | rfl | rfl | rfl | rfl := hi <;> exact notHandled_eq s .unrecognized

/-! ### What DISPATCH selects -/

theorem exec_dispatch_noMessage {s : State} (hv : s.msgValid = false) :
    exec .dispatch s = .next { s with status := ⟨.noMessage, .none⟩, response := some ⟨.noMessage, .none, .none⟩ } :=
  (if_pos hv).trans (raise_eq ..)

theorem exec_dispatch_response {s : State} (hv : s.msgValid = true) (hbit : s.msg.flags.getLsbD 7 = true) :
    exec .dispatch s = exec (.frameResponse s.msg.flags) s := by
  rw [exec, execDispatch, if_neg (by simp [hv]), Message.isResponse, if_pos hbit]
  rfl

/-- DISPATCH of a request runs the row of request frames, which does not look at the rest of the flags. -/
theorem exec_dispatch_request {s : State} (hv : s.msgValid = true) (hbit : s.msg.flags.getLsbD 7 = false) (fl : Byte) :
    exec .dispatch s = exec (.frameRequest fl) s := by
  rw [exec, execDispatch, if_neg (by simp [hv]), Message.isResponse, if_neg (by rw [hbit]; decide)]
  rfl

/-- An instruction that a cmd byte encodes is run by the multiplexer as itself. -/
theorem runArm_eq_exec {i : Instr} {c : Byte} (h : encode i = .cmd c) (s : State) : runArm i s = exec i s := by
  cases i with
  | setReport | appList | startApp | exitApp | curAppInfo | appInfo | key | touch => rfl
  | appCmd00 | appCmd80 | appCmdC0 | reservedC8 | reservedD0 | reservedE0 | reservedF0 => rfl
  | init | encode | encRespOk | encReport | encRespErr | decodeAt | push | tryDecode | dispatch | rdreg => cases h
  | illegal0A | illegal0C | illegal10 | illegal20 | illegal40 | illegal80 => cases h
  | frameRequest | frameResponse => cases h

theorem exec_frameRequest (fl : Byte) (s : State) : exec (.frameRequest fl) s = exec (decodeCmd s.msg.cmd) s :=
  runArm_eq_exec (decodeCmd_spec s.msg.cmd).2 s

theorem exec_frameRequest_decoded {s : State} {i : Instr} (fl : Byte) (hi : decode (.cmd s.msg.cmd) = .ok i) :
    exec (.frameRequest fl) s = exec i s := by
  cases hi
  exact exec_frameRequest fl s

/-- DISPATCH of a request runs the arm that its cmd decodes to (44_dispatch.md rule R260). -/
theorem exec_dispatch_arm {s : State} {c : Byte} {i : Instr} (hv : s.msgValid = true)
    (hbit : s.msg.flags.getLsbD 7 = false) (hi : decode (.cmd c) = .ok i) (hc : s.msg.cmd = c) :
    exec .dispatch s = exec i s := by
  subst hc
  exact (exec_dispatch_request hv hbit 0#8).trans (exec_frameRequest_decoded 0#8 hi)

/-- Settles O42: the three selections in their order, and the arm of a cmd is the row it decodes to. -/
theorem dispatchSelectsTheArm : Obligations.DispatchSelectsTheArm := by
  refine ⟨fun _ => rfl, fun s => ⟨exec_dispatch_noMessage, exec_dispatch_response, fun hv hbit => ?_,
    fun fl _ hi => exec_frameRequest_decoded fl hi⟩⟩
  have harm {c : Byte} {i : Instr} (hi : decode (.cmd c) = .ok i) := exec_dispatch_arm hv hbit hi
  exact ⟨exec_dispatch_request hv hbit _, harm rfl, harm rfl, harm rfl, harm rfl, harm rfl, harm rfl, harm rfl, harm rfl,
    fun _ _ hi => harm hi rfl⟩

/-- Settles O45: the row of responses is `notHandled` with reason 1, and DISPATCH of a response runs it. -/
theorem responsesAreNotDispatched : Obligations.ResponsesAreNotDispatched := fun _ s =>
  have h := notHandled_eq s .response
  ⟨h, fun hv hbit => (exec_dispatch_response hv hbit).trans h⟩

/-- The ids below 0xF8 are those of the seven unrecognized rows. -/
theorem decodeCmd_unrecognized : ∀ c : Byte, c.toNat < 0xF8 → decodeCmd c ∈
    [.appCmd00 c, .appCmd80 c, .appCmdC0 c, .reservedC8 c, .reservedD0 c, .reservedE0 c, .reservedF0 c] := by
  decide +kernel

/-- Settles O46: the arms of these ids, by the statements about the rows. -/
theorem dispatchLeavesOtherIdsToTheHost : Obligations.DispatchLeavesOtherIdsToTheHost := by
  refine fun s hv hbit => ⟨fun hc => ?_, fun hc => ?_⟩
  · obtain ⟨hset, hkey, htouch⟩ := passThroughArmsComplete s
    simp only [List.mem_cons, List.not_mem_nil, or_false] at hc
    obtain hc | hc | hc := hc
    · exact (exec_dispatch_arm hv hbit rfl hc).trans hset
    · exact (exec_dispatch_arm hv hbit rfl hc).trans hkey
    · exact (exec_dispatch_arm hv hbit rfl hc).trans htouch
  · exact (exec_dispatch_arm hv hbit rfl rfl).trans
      (unrecognizedArmsComplete s.msg.cmd s _ (decodeCmd_unrecognized _ hc))

/-! ### split_nul -/

theorem noNul_iff {t : Bytes} : noNul t = true ↔ 0x00#8 ∉ t := by
  simp only [noNul, List.all_eq_true, decide_eq_true_eq]
  exact ⟨fun h hmem => h _ hmem rfl, fun h b hb hzero => h (hzero ▸ hb)⟩

/-- Strings written one after the other are read back one by one. -/
theorem splitNulFrom_strings (done : List Bytes) {toks : List Bytes} (h : ∀ t ∈ toks, 0x00#8 ∉ t) :
    splitNulFrom [] done (toks.flatMap cstr) = some (done ++ toks) := by
  induction toks generalizing done with
  | nil => simp [splitNulFrom]
  | cons t toks ih =>
    obtain ⟨ht, htoks⟩ := List.forall_mem_cons.1 h
    rw [List.flatMap_cons, splitNulFrom_cstr _ _ _ (noNul_iff.2 ht), ih _ htoks, List.append_assoc, List.singleton_append]

/-- What the loop of `split_nul` has read when it succeeds: the token in progress and the rest are the strings it adds. -/
theorem splitNulFrom_eq_some {cur r : Bytes} {done toks : List Bytes} (hcur : 0x00#8 ∉ cur)
    (h : splitNulFrom cur done r = some toks) :
    ∃ new, toks = done ++ new ∧ cur ++ r = new.flatMap cstr ∧ ∀ t ∈ new, 0x00#8 ∉ t := by
  induction r generalizing cur done with
  | nil =>
    rw [splitNulFrom] at h
    split at h
    · next hnil =>
      cases h
      exact ⟨[], by simp, by simp [hnil], by simp⟩
    · cases h
  | cons b r ih =>
    rw [splitNulFrom] at h
    split at h
    · next hb =>
      obtain ⟨new, rfl, hr, hnew⟩ := ih List.not_mem_nil h
      exact ⟨cur :: new, by simp, by simp [hb, cstr, ← hr], List.forall_mem_cons.2 ⟨hcur, hnew⟩⟩
    · next hb =>
      obtain ⟨new, rfl, hr, hnew⟩ := ih (by simp [hcur, Ne.symm hb]) h
      exact ⟨new, rfl, by simpa using hr, hnew⟩

/-- Settles O47: the loop from no token, in both directions. -/
theorem splitNulReadsTerminatedStrings : Obligations.SplitNulReadsTerminatedStrings := by
  refine fun r toks => ⟨fun h => ?_, ?_⟩
  · obtain ⟨new, rfl, hr, hnew⟩ := splitNulFrom_eq_some List.not_mem_nil h
    exact ⟨hr, hnew⟩
  · rintro ⟨rfl, h⟩
    exact splitNulFrom_strings [] h

/-! ### One reply after the calls of an arm -/

/-- A call made before the reply is the first of the arm's calls. -/
theorem State.logCall_afterReply (s : State) (c : AgentCall) (made : List AgentCall) (f : Bytes) (isErr : Bool) :
    (s.logCall c).afterReply made f isErr = s.afterReply (c :: made) f isErr := by
  simp [State.afterReply, State.logCall]

theorem State.logCall_afterOversize (s : State) (c : AgentCall) (made : List AgentCall) :
    (s.logCall c).afterOversize made = s.afterOversize (c :: made) := by
  simp [State.afterOversize, State.logCall]

theorem replyOk_oversize {s : State} {body : Bytes} (h : s.cfg.replyCap < body.length + 12) :
    replyOk s body = .next (s.afterOversize []) := by
  rw [replyOk_tooBig s body h]
  simp [finishDispatch, respond_eq, State.afterOversize]

/-- REPLY_CAP is a 32-bit number (00_scope.md rule R9). -/
theorem replyCap_lt {c : Config} (hw : c.wf = true) : c.replyCap < 2 ^ 32 := (replyCap_bounds hw .startArgs).2

/-- An ok reply without a body always fits. -/
theorem replyOk_empty {s : State} (hw : s.cfg.wf = true) (h : s.env.sinkOk (okReply s [])) :
    replyOk s [] = .next (s.afterReply [] (okReply s []) false) := by
  obtain ⟨hfit, hcap⟩ := replyCap_bounds hw .startArgs
  exact replyOk_fits s [] (by rw [List.length_nil]; omega) hcap h

/-- An ok reply after one call. -/
theorem replyOk_logCall {s : State} {c : AgentCall} {body : Bytes} (hw : s.cfg.wf = true)
    (hfit : body.length + 12 ≤ s.cfg.replyCap) (h : s.env.sinkOk (okReply s body)) :
    replyOk (s.logCall c) body = .next (s.afterReply [c] (okReply s body) false) := by
  rw [replyOk_fits (s.logCall c) body hfit (replyCap_lt hw) h, State.logCall_afterReply]
  rfl

/-- An error reply after one call. -/
theorem replyErr_logCall {s : State} {c : AgentCall} {code : Byte} {site : Site} (hw : s.cfg.wf = true)
    (h : s.env.sinkOk (errReply s code site)) :
    replyErr (s.logCall c) code site = .next (s.afterReply [c] (errReply s code site) true) := by
  rw [replyErr_fits (s.logCall c) code site hw h, State.logCall_afterReply]
  rfl

theorem replyOk_logCall_oversize {s : State} {c : AgentCall} {body : Bytes} (h : s.cfg.replyCap < body.length + 12) :
    replyOk (s.logCall c) body = .next (s.afterOversize [c]) := by
  rw [replyOk_oversize (s := s.logCall c) h, State.logCall_afterOversize]

/-! ### APP_LIST -/

theorem exec_appList {s : State} (ha : s.env.appsOk) :
    exec .appList s = replyOk (s.logCall .listApps) (appListBody s.env.apps) := by
  rw [exec, execAppList, queryApps_ok s _ ha]

/-- Settles O48: the reply's two ends. -/
theorem appListReplies : Obligations.AppListReplies := by
  refine ⟨rfl, ?_⟩
  rintro s _ rfl ha
  rw [exec_appList ha]
  exact ⟨fun hw hfit hsink => replyOk_logCall hw hfit hsink, fun hbig => replyOk_logCall_oversize hbig⟩

/-! ### The arguments of START_APP and APP_INFO -/

theorem parseArgs_eq_some {body rest : Bytes} {idx : Byte} {toks : List Bytes} {most : Nat} (hbody : body = idx :: rest)
    (hsplit : splitNul rest = some toks) (hmost : toks.length ≤ most) : parseArgs body most = some (idx, toks) := by
  simp only [hbody, parseArgs, hsplit]
  exact if_neg (Nat.not_lt.2 hmost)

/-- An empty body, a string without its NUL, or too many strings (44_dispatch.md rules R269, R276). -/
theorem parseArgs_eq_none {body : Bytes} {most : Nat}
    (h : body = [] ∨ ∃ idx rest, body = idx :: rest ∧
      (splitNul rest = none ∨ ∃ toks, splitNul rest = some toks ∧ most < toks.length)) : parseArgs body most = none := by
  obtain rfl | ⟨idx, rest, rfl, hsplit | ⟨toks, hsplit, hmost⟩⟩ := h
  · rfl
  · simp only [parseArgs, hsplit]
  · simp only [parseArgs, hsplit]
    exact if_pos hmost

/-! ### START_APP -/

theorem exec_startApp_malformed {s : State} (h : parseArgs s.msg.body 2 = none) :
    exec .startApp s = replyErr s s.cfg.errcodeArgs .startArgs := by
  rw [exec, execStartApp, h]

theorem exec_startApp_byId {s : State} {toks : List Bytes} (h : parseArgs s.msg.body 2 = some (0xFF#8, toks)) :
    exec .startApp s =
      if tokenAt toks 0 = [] then replyErr s s.cfg.errcodeArgs .startArgs
      else startTarget s (.id (tokenAt toks 0)) (tokenAt toks 1) := by
  rw [exec, execStartApp, h]
  exact if_pos rfl

theorem exec_startApp_byIndex {s : State} {idx : Byte} {toks : List Bytes}
    (h : parseArgs s.msg.body 2 = some (idx, toks)) (hidx : idx ≠ 0xFF#8) (ha : s.env.appsOk) :
    exec .startApp s =
      if s.env.apps.length ≤ idx.toNat then replyErr (s.logCall .listApps) s.cfg.errcodeNotFound .startNotFound
      else startTarget (s.logCall .listApps) (.index idx) (tokenAt toks 1) := by
  rw [exec, execStartApp, h]
  exact (if_neg hidx).trans (queryApps_ok s _ ha)

/-- The switch is asked for and answered ok, whatever its Result (44_dispatch.md rule R270). -/
theorem startTarget_eq {s : State} {target : Target} {arg : Bytes} (hw : s.cfg.wf = true)
    (h : s.env.sinkOk (okReply s [])) :
    startTarget s target arg = .next (s.afterReply [.switchApp target arg] (okReply s []) false) := by
  rw [startTarget, callSwitchApp, replyOk_empty (s := s.logCall _) hw h, State.logCall_afterReply]
  rfl

/-- Settles O49: the index names an app of the list. -/
theorem startAppByIndexReplies : Obligations.StartAppByIndexReplies := by
  intro s idx rest toks hbody hsplit hmost hidx hrange hw ha hsink
  have hargs := parseArgs_eq_some hbody hsplit hmost
  rw [exec_startApp_byIndex hargs hidx ha, if_neg (by omega), startTarget_eq (s := s.logCall _) hw hsink,
    State.logCall_afterReply]
  rfl

/-- Settles O50: the first string is the id. -/
theorem startAppByIdReplies : Obligations.StartAppByIdReplies := by
  intro s rest name more hbody hsplit hmost hname hw hsink
  have hargs := parseArgs_eq_some (most := 2) hbody hsplit (by rw [List.length_cons]; omega)
  rw [exec_startApp_byId hargs, if_neg (by exact hname), startTarget_eq hw hsink]
  rfl

/-- The bodies that START_APP answers with ERRCODE_ARGS (44_dispatch.md rule R269). -/
theorem exec_startApp_badArgs {s : State}
    (h : s.msg.body = [] ∨ ∃ idx rest, s.msg.body = idx :: rest ∧
      (splitNul rest = none ∨ ∃ toks, splitNul rest = some toks ∧
        (2 < toks.length ∨ (idx = 0xFF#8 ∧ toks.getD 0 [] = [])))) :
    exec .startApp s = replyErr s s.cfg.errcodeArgs .startArgs := by
  obtain hnil | ⟨idx, rest, hbody, hsplit | ⟨toks, hsplit, hbad⟩⟩ := h
  · exact exec_startApp_malformed (parseArgs_eq_none (.inl hnil))
  · exact exec_startApp_malformed (parseArgs_eq_none (.inr ⟨idx, rest, hbody, .inl hsplit⟩))
  · by_cases hmost : 2 < toks.length
    · exact exec_startApp_malformed (parseArgs_eq_none (.inr ⟨idx, rest, hbody, .inr ⟨toks, hsplit, hmost⟩⟩))
    · obtain ⟨rfl, hid⟩ := hbad.resolve_left hmost
      rw [exec_startApp_byId (parseArgs_eq_some hbody hsplit (by omega)), tokenAt, if_pos hid]

/-- Settles O51: the bad arguments before any call, and the index out of range after `list_apps`. -/
theorem startAppErrorReplies : Obligations.StartAppErrorReplies := by
  refine fun s hw => ⟨fun hsink hbody => ?_, fun idx rest toks hsink hbody hsplit hmost hidx hrange ha => ?_⟩
  · rw [exec_startApp_badArgs hbody, replyErr_fits s _ _ hw hsink]
  · have hargs := parseArgs_eq_some hbody hsplit hmost
    rw [exec_startApp_byIndex hargs hidx ha, if_pos hrange, replyErr_logCall hw hsink]

/-! ### EXIT_APP -/

theorem exec_exitApp_err {s : State} {e : Byte} (h : s.env.exitResult = .err e) :
    exec .exitApp s = replyErr (s.logCall .requestExit) e .exitFail := by
  rw [exec, execExitApp, queryExit, h]

/-- `exit_req` may as well be set before `request_exit` is called: neither reads the other (log entry 20). -/
theorem exec_exitApp_ok {s : State} (h : s.env.exitResult = .ok) :
    exec .exitApp s = replyOk ((s.setExitReq true).logCall .requestExit) [] := by
  rw [exec, execExitApp, queryExit, h]
  rfl

/-- Settles O52: the reply of each answer of `request_exit`. -/
theorem exitAppReplies : Obligations.ExitAppReplies := by
  refine ⟨rfl, fun s hw => ⟨fun hok hsink => ?_, fun e herr hsink => ?_⟩⟩
  · rw [exec_exitApp_ok hok, replyOk_empty (s := (s.setExitReq true).logCall _) hw hsink, State.logCall_afterReply]
    rfl
  · rw [exec_exitApp_err herr, replyErr_logCall hw hsink]

/-! ### CUR_APP_INFO -/

/-- The least index of an id is found. -/
theorem findApp_eq_some {apps : List AppRecord} {id : Bytes} {k : Nat} {a : AppRecord} (hk : apps[k]? = some a)
    (hid : a.id = id) (hleast : ∀ (j : Nat) (b : AppRecord), j < k → apps[j]? = some b → b.id ≠ id) :
    findApp apps id = some k := by
  obtain ⟨hlt, rfl⟩ := List.getElem?_eq_some_iff.1 hk
  refine List.findIdx?_eq_some_iff_getElem.2 ⟨hlt, decide_eq_true hid, fun j hj => ?_⟩
  simpa using hleast j _ hj (List.getElem?_eq_getElem (hj.trans hlt))

theorem findApp_eq_none {apps : List AppRecord} {id : Bytes} (h : ∀ a ∈ apps, a.id ≠ id) : findApp apps id = none :=
  List.findIdx?_eq_none_iff.2 fun a ha => decide_eq_false (h a ha)

theorem curAppBody_length (apps : List AppRecord) (cur : Bytes) : (curAppBody apps cur).length = cur.length + 2 := by
  simp [curAppBody]

theorem exec_curAppInfo {s : State} (ha : s.env.appsOk) (hc : s.env.currentOk) :
    exec .curAppInfo s =
      replyOk ((s.logCall .currentAppId).logCall .listApps) (curAppBody s.env.apps s.env.currentApp) := by
  rw [exec, execCurAppInfo, queryCurrentApp_ok s _ hc, queryApps_ok (s.logCall _) _ ha]
  rfl

/-- CUR_APP_INFO's reply that fits. -/
theorem exec_curAppInfo_fits {s : State} {out : Bytes} (ha : s.env.appsOk) (hc : s.env.currentOk)
    (hout : curAppBody s.env.apps s.env.currentApp = out) (hw : s.cfg.wf = true)
    (hfit : s.env.currentApp.length + 14 ≤ s.cfg.replyCap) (hsink : s.env.sinkOk (okReply s out)) :
    exec .curAppInfo s = .next (s.afterReply [.currentAppId, .listApps] (okReply s out) false) := by
  subst hout
  rw [exec_curAppInfo ha hc, replyOk_logCall (s := s.logCall _) hw (by rw [curAppBody_length]; exact hfit) hsink,
    State.logCall_afterReply]
  rfl

/-- Settles O53: the first byte of the reply is what `findApp` finds. -/
theorem curAppInfoReplies : Obligations.CurAppInfoReplies := by
  refine ⟨rfl, fun s ha hc => ⟨fun k a hw hfit hk hid hleast => ?_, fun hw hfit hnone => ?_, fun hbig => ?_⟩⟩
  · exact exec_curAppInfo_fits ha hc (by rw [curAppBody, findApp_eq_some hk hid hleast]; rfl) hw hfit
  · exact exec_curAppInfo_fits ha hc (by rw [curAppBody, findApp_eq_none hnone]; rfl) hw hfit
  · rw [exec_curAppInfo ha hc, replyOk_logCall_oversize (s := s.logCall _) (by rw [curAppBody_length]; exact hbig),
      State.logCall_afterOversize]

/-! ### APP_INFO -/

/-- The index byte and the strings name the app `a` at `k`: by its index, or by an id that no app before it has (44_dispatch.md
rules R275, R276). -/
def NamesApp (apps : List AppRecord) (idx : Byte) (toks : List Bytes) (k : Nat) (a : AppRecord) : Prop :=
  (idx ≠ 0xFF#8 ∧ idx.toNat = k) ∨
    (idx = 0xFF#8 ∧ toks = [a.id] ∧ a.id ≠ [] ∧ ∀ (j : Nat) (b : AppRecord), j < k → apps[j]? = some b → b.id ≠ a.id)

theorem NamesApp.resolveApp_eq {apps : List AppRecord} {idx : Byte} {toks : List Bytes} {k : Nat} {a : AppRecord}
    (h : NamesApp apps idx toks k a) (hk : apps[k]? = some a) : resolveApp apps idx toks = some k := by
  obtain ⟨hidx, rfl⟩ | ⟨rfl, rfl, hid, hleast⟩ := h
  · obtain ⟨hlt, -⟩ := List.getElem?_eq_some_iff.1 hk
    rw [resolveApp, if_neg hidx, if_neg (by omega)]
  · rw [resolveApp, if_pos rfl, if_neg (by exact hid)]
    exact findApp_eq_some hk rfl hleast

/-- No app is named: an index out of range, no id with index 0xFF, or an unknown one (44_dispatch.md rules R276, R277). -/
theorem resolveApp_eq_none {apps : List AppRecord} {idx : Byte} {toks : List Bytes}
    (h : (idx ≠ 0xFF#8 ∧ apps.length ≤ idx.toNat) ∨ (idx = 0xFF#8 ∧ toks.getD 0 [] = []) ∨
      (idx = 0xFF#8 ∧ ∀ a ∈ apps, a.id ≠ toks.getD 0 [])) : resolveApp apps idx toks = none := by
  obtain ⟨hidx, hrange⟩ | ⟨rfl, hid⟩ | ⟨rfl, hunknown⟩ := h
  · rw [resolveApp, if_neg hidx, if_pos hrange]
  · rw [resolveApp, if_pos rfl, tokenAt, if_pos hid]
  · rw [resolveApp, if_pos rfl, tokenAt, findApp_eq_none hunknown, ite_self]

theorem exec_appInfo_malformed {s : State} (h : parseArgs s.msg.body 1 = none) :
    exec .appInfo s = replyErr s s.cfg.errcodeArgs .infoArgs := by
  rw [exec, execAppInfo, h]

/-- APP_INFO of arguments that name no app. -/
theorem exec_appInfo_unknown {s : State} {idx : Byte} {toks : List Bytes} (h : parseArgs s.msg.body 1 = some (idx, toks))
    (ha : s.env.appsOk) (hnone : resolveApp s.env.apps idx toks = none) :
    exec .appInfo s = replyErr (s.logCall .listApps) s.cfg.errcodeArgs .infoArgs := by
  rw [exec, execAppInfo, h]
  dsimp only
  rw [queryApps_ok s _ ha, hnone]
  rfl

/-- APP_INFO of arguments that name an app. -/
theorem exec_appInfo_known {s : State} {idx : Byte} {toks : List Bytes} {k : Nat} {a : AppRecord}
    (h : parseArgs s.msg.body 1 = some (idx, toks)) (ha : s.env.appsOk)
    (hname : resolveApp s.env.apps idx toks = some k) (hk : s.env.apps[k]? = some a) :
    exec .appInfo s = replyOk (s.logCall .listApps) (appInfoBody k a) := by
  rw [exec, execAppInfo, h]
  dsimp only
  rw [queryApps_ok s _ ha, hname, Option.bind_some, hk]
  rfl

theorem appInfoBody_length (k : Nat) (a : AppRecord) :
    (appInfoBody k a).length = a.id.length + a.name.length + a.description.length + 4 := by
  simp [appInfoBody]
  omega

theorem exec_appInfo_named {s : State} {idx : Byte} {rest : Bytes} {toks : List Bytes} {k : Nat} {a : AppRecord}
    (hbody : s.msg.body = idx :: rest) (hsplit : splitNul rest = some toks) (hmost : toks.length ≤ 1)
    (hk : s.env.apps[k]? = some a) (hname : NamesApp s.env.apps idx toks k a) (ha : s.env.appsOk) :
    exec .appInfo s = replyOk (s.logCall .listApps) (appInfoBody k a) := by
  have hargs := parseArgs_eq_some hbody hsplit hmost
  exact exec_appInfo_known hargs ha (hname.resolveApp_eq hk) hk

/-- Settles O54: the named app's info fits. -/
theorem appInfoReplies : Obligations.AppInfoReplies := by
  rintro s idx rest toks k a _ hbody hsplit hmost hk hname rfl hw ha hfit hsink
  rw [exec_appInfo_named hbody hsplit hmost hk hname ha]
  exact replyOk_logCall hw hfit hsink

/-- Settles O56: the named app's info does not fit. -/
theorem oversizeAppInfoIsNotSent : Obligations.OversizeAppInfoIsNotSent := by
  intro s idx rest toks k a hbody hsplit hmost hk hname ha hbig
  rw [exec_appInfo_named hbody hsplit hmost hk hname ha]
  exact replyOk_logCall_oversize (by rw [appInfoBody_length]; omega)

/-- Settles O55: the malformed bodies before any call, then the arguments that name no app. -/
theorem appInfoErrorReplies : Obligations.AppInfoErrorReplies := by
  refine fun s hw hsink => ⟨fun hbody => ?_, fun idx rest toks hbody hsplit hmost ha hnone => ?_⟩
  · rw [exec_appInfo_malformed (parseArgs_eq_none hbody), replyErr_fits s _ _ hw hsink]
  · have hargs := parseArgs_eq_some hbody hsplit hmost
    rw [exec_appInfo_unknown hargs ha (resolveApp_eq_none hnone), replyErr_logCall hw hsink]

/-! ### Dispatcher completeness -/

/-- The outcome is a next state that has written one frame more, of the request's cmd, and marked the message as replied. -/
def RepliesOnce (s : State) (o : Out) : Prop :=
  ∃ (f : Bytes) (t : State), o = .next t ∧ t.wire = s.wire ++ [f] ∧ byteAt f 9 = s.msg.cmd ∧
    t.msg.hasBeenReplied = true ∧ t.status.last = .ok

theorem State.logCall_wire {s : State} {c : AgentCall} (hc : c.frame? = none) : (s.logCall c).wire = s.wire := by
  simp [State.wire, hc]

/-- A call other than `sink_write` writes no frame. -/
theorem RepliesOnce.of_logCall {s : State} {c : AgentCall} {o : Out} (hc : c.frame? = none)
    (h : RepliesOnce (s.logCall c) o) : RepliesOnce s o := by
  obtain ⟨f, t, ho, hwire, hrest⟩ := h
  exact ⟨f, t, ho, by rw [hwire, State.logCall_wire hc], hrest⟩

/-- A reply to a sink that writes every byte. -/
theorem repliesOnce_afterReply {s : State} {f : Bytes} (isErr : Bool) (hall : s.env.sink = .all)
    (hcmd : byteAt f 9 = s.msg.cmd) : RepliesOnce s (.next (s.afterReply [] f isErr)) :=
  ⟨f, _, rfl, by simp [State.wire, State.afterReply, AgentCall.frame?], hcmd, rfl, by
    simp [State.afterReply, statusAfterWrite, hall]⟩

/-- A sink that writes every byte keeps its duty on every frame. -/
theorem sinkOk_of_all {e : Env} (hall : e.sink = .all) (f : Bytes) : e.sinkOk f := by
  rw [Env.sinkOk, hall]
  trivial

theorem replyOk_repliesOnce {s : State} {body : Bytes} (hall : s.env.sink = .all) (hw : s.cfg.wf = true)
    (hfit : body.length + 12 ≤ s.cfg.replyCap) : RepliesOnce s (replyOk s body) := by
  rw [replyOk_fits s body hfit (replyCap_lt hw) (sinkOk_of_all hall _)]
  exact repliesOnce_afterReply false hall (byteAt_wireFrame_cmd_alone ..)

theorem replyErr_repliesOnce {s : State} {code : Byte} {site : Site} (hall : s.env.sink = .all) (hw : s.cfg.wf = true) :
    RepliesOnce s (replyErr s code site) := by
  rw [replyErr_fits s code site hw (sinkOk_of_all hall _)]
  exact repliesOnce_afterReply true hall (byteAt_wireFrame_cmd_alone ..)

theorem startTarget_repliesOnce {s : State} {target : Target} {arg : Bytes} (hall : s.env.sink = .all)
    (hw : s.cfg.wf = true) : RepliesOnce s (startTarget s target arg) := by
  obtain ⟨hfit, -⟩ := replyCap_bounds hw .startArgs
  exact .of_logCall (c := .switchApp target arg) rfl
    (replyOk_repliesOnce (s := s.logCall _) hall hw (by rw [List.length_nil, State.logCall_cfg]; omega))

theorem appList_repliesOnce {s : State} (hall : s.env.sink = .all) (hw : s.cfg.wf = true) (ha : s.env.appsOk)
    (hfit : s.repliesFit) : RepliesOnce s (exec .appList s) := by
  obtain ⟨hlist, -, -⟩ := hfit
  rw [exec_appList ha]
  exact .of_logCall (c := .listApps) rfl (replyOk_repliesOnce (s := s.logCall _) hall hw hlist)

theorem startApp_repliesOnce {s : State} (hall : s.env.sink = .all) (hw : s.cfg.wf = true) (ha : s.env.appsOk) :
    RepliesOnce s (exec .startApp s) := by
  cases hargs : parseArgs s.msg.body 2 with
  | none =>
    rw [exec_startApp_malformed hargs]
    exact replyErr_repliesOnce hall hw
  | some args =>
    obtain ⟨idx, toks⟩ := args
    by_cases hidx : idx = 0xFF#8
    · subst hidx
      rw [exec_startApp_byId hargs]
      split
      · exact replyErr_repliesOnce hall hw
      · exact startTarget_repliesOnce hall hw
    · rw [exec_startApp_byIndex hargs hidx ha]
      refine .of_logCall (c := .listApps) rfl ?_
      split
      · exact replyErr_repliesOnce (s := s.logCall _) hall hw
      · exact startTarget_repliesOnce (s := s.logCall _) hall hw

theorem exitApp_repliesOnce {s : State} (hall : s.env.sink = .all) (hw : s.cfg.wf = true) :
    RepliesOnce s (exec .exitApp s) := by
  cases hres : s.env.exitResult with
  | err e =>
    rw [exec_exitApp_err hres]
    exact .of_logCall (c := .requestExit) rfl (replyErr_repliesOnce (s := s.logCall _) hall hw)
  | ok =>
    obtain ⟨hfit, -⟩ := replyCap_bounds hw .startArgs
    rw [exec_exitApp_ok hres]
    exact .of_logCall (s := s) (c := .requestExit) rfl
      (replyOk_repliesOnce (s := (s.setExitReq true).logCall _) hall hw (by simp; omega))

theorem curAppInfo_repliesOnce {s : State} (hall : s.env.sink = .all) (hw : s.cfg.wf = true) (ha : s.env.appsOk)
    (hc : s.env.currentOk) (hfit : s.repliesFit) : RepliesOnce s (exec .curAppInfo s) := by
  obtain ⟨-, hcur, -⟩ := hfit
  rw [exec_curAppInfo ha hc]
  exact .of_logCall (c := .currentAppId) rfl (.of_logCall (c := .listApps) rfl
    (replyOk_repliesOnce (s := (s.logCall _).logCall _) hall hw (by rw [curAppBody_length]; exact hcur)))

/-- What APP_INFO resolves is the index of an app of the list. -/
theorem resolveApp_lt {apps : List AppRecord} {idx : Byte} {toks : List Bytes} {k : Nat}
    (h : resolveApp apps idx toks = some k) : k < apps.length := by
  unfold resolveApp at h
  split at h
  · split at h
    · cases h
    · obtain ⟨hlt, -⟩ := List.findIdx?_eq_some_iff_getElem.1 h
      exact hlt
  · split at h
    · cases h
    · cases h
      omega

theorem appInfo_repliesOnce {s : State} (hall : s.env.sink = .all) (hw : s.cfg.wf = true) (ha : s.env.appsOk)
    (hfit : s.repliesFit) : RepliesOnce s (exec .appInfo s) := by
  cases hargs : parseArgs s.msg.body 1 with
  | none =>
    rw [exec_appInfo_malformed hargs]
    exact replyErr_repliesOnce hall hw
  | some args =>
    obtain ⟨idx, toks⟩ := args
    cases hname : resolveApp s.env.apps idx toks with
    | none =>
      rw [exec_appInfo_unknown hargs ha hname]
      exact .of_logCall (c := .listApps) rfl (replyErr_repliesOnce (s := s.logCall _) hall hw)
    | some k =>
      obtain ⟨-, -, hinfo⟩ := hfit
      have hk := resolveApp_lt hname
      rw [exec_appInfo_known hargs ha hname (List.getElem?_eq_getElem hk)]
      exact .of_logCall (c := .listApps) rfl (replyOk_repliesOnce (s := s.logCall _) hall hw
        (by rw [appInfoBody_length]; exact hinfo _ (List.getElem_mem hk)))

/-- The ids 0xF9 to 0xFD are those of the five answered rows. -/
theorem decodeCmd_answered : ∀ c : Byte, 0xF9 ≤ c.toNat → c.toNat ≤ 0xFD →
    decodeCmd c ∈ [.appList, .startApp, .exitApp, .curAppInfo, .appInfo] := by
  decide +kernel

theorem answeredArm_repliesOnce {s : State} {i : Instr} (hi : i ∈ [.appList, .startApp, .exitApp, .curAppInfo, .appInfo])
    (hall : s.env.sink = .all) (hw : s.cfg.wf = true) (ha : s.env.appsOk) (hc : s.env.currentOk) (hfit : s.repliesFit) :
    RepliesOnce s (exec i s) := by
  simp only [List.mem_cons, List.not_mem_nil, or_false] at hi
  obtain rfl | rfl | rfl | rfl | rfl := hi
  · exact appList_repliesOnce hall hw ha hfit
  · exact startApp_repliesOnce hall hw ha
  · exact exitApp_repliesOnce hall hw
  · exact curAppInfo_repliesOnce hall hw ha hc hfit
  · exact appInfo_repliesOnce hall hw ha hfit

/-- The ids of the pass-through arms are the rest of those from 0xF8 on. -/
theorem mem_passThrough_of_not_answered : ∀ c : Byte, 0xF8 ≤ c.toNat → ¬ (0xF9 ≤ c.toNat ∧ c.toNat ≤ 0xFD) →
    c ∈ [0xF8#8, 0xFE#8, 0xFF#8] := by
  decide +kernel

/-- Settles O58: the answered ids by their arms, the others by what is left to the host. -/
theorem dispatcherIsComplete : Obligations.DispatcherIsComplete := by
  refine fun s hw ha hc hall hfit hv hbit => ⟨fun hlo hhi => ?_, fun hother => ?_⟩
  · obtain ⟨f, t, hexec, hreply⟩ := answeredArm_repliesOnce (decodeCmd_answered _ hlo hhi) hall hw ha hc hfit
    rw [← exec_dispatch_arm hv hbit rfl rfl] at hexec
    exact ⟨f, t, hexec, fun fl => (exec_dispatch_request hv hbit fl).symm.trans hexec, hreply⟩
  · obtain ⟨hpass, hunrecognized⟩ := dispatchLeavesOtherIdsToTheHost s hv hbit
    obtain hlt | hge := Nat.lt_or_ge s.msg.cmd.toNat 0xF8
    · have hexec := hunrecognized hlt
      exact ⟨_, hexec, fun fl => (exec_dispatch_request hv hbit fl).symm.trans hexec, rfl, rfl, rfl⟩
    · have hexec := hpass (mem_passThrough_of_not_answered _ hge hother)
      exact ⟨_, hexec, fun fl => (exec_dispatch_request hv hbit fl).symm.trans hexec, rfl, rfl, rfl⟩

/-! ### A second DISPATCH -/

/-- The two states agree on all that dispatching reads: not on `has_been_replied`, and not on what earlier operations left
as outputs (44_dispatch.md rule R263). -/
structure SameRequest (s s' : State) : Prop where
  cfg : s'.cfg = s.cfg
  cfgMagic : s'.cfgMagic = s.cfgMagic
  msgValid : s'.msgValid = s.msgValid
  flags : s'.msg.flags = s.msg.flags
  cmd : s'.msg.cmd = s.msg.cmd
  body : s'.msg.body = s.msg.body
  env : s'.env = s.env

theorem SameRequest.logCall {s s' : State} (h : SameRequest s s') (c : AgentCall) :
    SameRequest (s.logCall c) (s'.logCall c) := { h with }

theorem SameRequest.setExitReq {s s' : State} (h : SameRequest s s') (b : Bool) :
    SameRequest (s.setExitReq b) (s'.setExitReq b) := { h with }

/-- When `o`, from `s`, answers a next state, `o'`, from `s'`, makes the same calls and ends with the same status. -/
def Repeats (s s' : State) (o o' : Out) : Prop :=
  ∀ t, o = .next t → ∃ (made : List AgentCall) (u : State),
    t.calls = s.calls ++ made ∧ o' = .next u ∧ u.calls = s'.calls ++ made ∧ u.status = t.status

theorem respond_repeats {s s' : State} {st : Status} {r : Reason} {res res' : Result} :
    Repeats s s' (respond s st r res) (respond s' st r res') := by
  rintro t ⟨⟩
  exact ⟨[], _, by simp, rfl, by simp, rfl⟩

theorem fault_repeats {s s' : State} {r : Fault} {o' : Out} : Repeats s s' (.fault r) o' := by
  intro t h
  cases h

/-- A call made first by both is one more call of both. -/
theorem Repeats.of_logCall {s s' : State} {c : AgentCall} {o o' : Out} (h : Repeats (s.logCall c) (s'.logCall c) o o') :
    Repeats s s' o o' := by
  intro t ht
  obtain ⟨made, u, hmade, hu, hmade', hst⟩ := h t ht
  exact ⟨c :: made, u, by simpa using hmade, hu, by simpa using hmade', hst⟩

theorem sinkWrite_repeats {s s' : State} (h : SameRequest s s') {f : Bytes} {k : Option Reason → State → Out}
    (hk : ∀ x, Repeats (s.logCall (.sinkWrite f)) (s'.logCall (.sinkWrite f)) (k x (s.logCall (.sinkWrite f)))
      (k x (s'.logCall (.sinkWrite f)))) : Repeats s s' (sinkWrite s f k) (sinkWrite s' f k) := by
  unfold sinkWrite
  rw [h.env]
  cases s.env.sink with
  | error | all => exact (hk _).of_logCall
  | count n =>
    dsimp only
    split
    · exact fault_repeats
    · split
      · exact (hk _).of_logCall
      · exact (hk _).of_logCall

theorem send_repeats {s s' : State} (h : SameRequest s s') (e : Except Reason Bytes) (r : Reason) :
    Repeats s s' (send s e r) (send s' e r) := by
  unfold send
  cases e with
  | error => exact respond_repeats
  | ok f =>
    refine sinkWrite_repeats h fun x => ?_
    cases x with
    | none => exact respond_repeats (s := State.markReplied _) (s' := State.markReplied _)
    | some why => exact respond_repeats (s := State.markReplied _) (s' := State.markReplied _)

theorem replyOk_repeats {s s' : State} (h : SameRequest s s') (body : Bytes) :
    Repeats s s' (replyOk s body) (replyOk s' body) := by
  unfold replyOk State.encodeWith
  rw [h.cfg, h.cfgMagic, h.cmd]
  exact send_repeats h _ _

theorem replyErr_repeats {s s' : State} (h : SameRequest s s') (code : Byte) (site : Site) :
    Repeats s s' (replyErr s code site) (replyErr s' code site) := by
  unfold replyErr State.encodeWith
  rw [h.cfg, h.cfgMagic, h.cmd]
  exact send_repeats h _ _

theorem startTarget_repeats {s s' : State} (h : SameRequest s s') (target : Target) (arg : Bytes) :
    Repeats s s' (startTarget s target arg) (startTarget s' target arg) :=
  .of_logCall (replyOk_repeats (h.logCall _) [])

theorem queryApps_repeats {s s' : State} (h : SameRequest s s') {k k' : List AppRecord → State → Out}
    (hk : ∀ apps, Repeats (s.logCall .listApps) (s'.logCall .listApps) (k apps (s.logCall .listApps))
      (k' apps (s'.logCall .listApps))) : Repeats s s' (queryApps s k) (queryApps s' k') := by
  unfold queryApps
  rw [h.env]
  split
  · exact fault_repeats
  · split
    · exact (hk _).of_logCall
    · exact fault_repeats

theorem queryCurrentApp_repeats {s s' : State} (h : SameRequest s s') {k k' : Bytes → State → Out}
    (hk : ∀ cur, Repeats (s.logCall .currentAppId) (s'.logCall .currentAppId) (k cur (s.logCall .currentAppId))
      (k' cur (s'.logCall .currentAppId))) : Repeats s s' (queryCurrentApp s k) (queryCurrentApp s' k') := by
  unfold queryCurrentApp
  rw [h.env]
  split
  · exact (hk _).of_logCall
  · exact fault_repeats

theorem execAppList_repeats {s s' : State} (h : SameRequest s s') : Repeats s s' (execAppList s) (execAppList s') :=
  queryApps_repeats h fun _ => replyOk_repeats (h.logCall _) _

theorem execStartApp_repeats {s s' : State} (h : SameRequest s s') : Repeats s s' (execStartApp s) (execStartApp s') := by
  unfold execStartApp
  rw [h.body, h.cfg]
  split
  · exact replyErr_repeats h _ _
  · split
    · split
      · exact replyErr_repeats h _ _
      · exact startTarget_repeats h _ _
    · refine queryApps_repeats h fun apps => ?_
      rw [State.logCall_cfg, State.logCall_cfg, h.cfg]
      split
      · exact replyErr_repeats (h.logCall _) _ _
      · exact startTarget_repeats (h.logCall _) _ _

theorem execExitApp_repeats {s s' : State} (h : SameRequest s s') : Repeats s s' (execExitApp s) (execExitApp s') := by
  unfold execExitApp queryExit
  rw [h.env]
  cases s.env.exitResult with
  | err e => exact .of_logCall (replyErr_repeats (h.logCall .requestExit) _ _)
  | ok => exact .of_logCall (s := s) (replyOk_repeats ((h.logCall .requestExit).setExitReq true) _)

theorem execCurAppInfo_repeats {s s' : State} (h : SameRequest s s') :
    Repeats s s' (execCurAppInfo s) (execCurAppInfo s') :=
  queryCurrentApp_repeats h fun _ => queryApps_repeats (h.logCall _) fun _ => replyOk_repeats ((h.logCall _).logCall _) _

theorem execAppInfo_repeats {s s' : State} (h : SameRequest s s') : Repeats s s' (execAppInfo s) (execAppInfo s') := by
  unfold execAppInfo
  rw [h.body, h.cfg]
  split
  · exact replyErr_repeats h _ _
  · refine queryApps_repeats h fun apps => ?_
    rw [State.logCall_cfg, State.logCall_cfg, h.cfg]
    split
    · exact replyErr_repeats (h.logCall _) _ _
    · exact replyOk_repeats (h.logCall _) _

theorem runArm_repeats {s s' : State} (h : SameRequest s s') (i : Instr) : Repeats s s' (runArm i s) (runArm i s') := by
  cases i
  case appList => exact execAppList_repeats h
  case startApp => exact execStartApp_repeats h
  case exitApp => exact execExitApp_repeats h
  case curAppInfo => exact execCurAppInfo_repeats h
  case appInfo => exact execAppInfo_repeats h
  all_goals exact respond_repeats

theorem exec_dispatch_repeats {s s' : State} (h : SameRequest s s') :
    Repeats s s' (exec .dispatch s) (exec .dispatch s') := by
  show Repeats s s' (execDispatch s) (execDispatch s')
  unfold execDispatch execFrameRequest Message.isResponse
  rw [h.msgValid, h.flags, h.cmd]
  split
  · exact respond_repeats
  · split
    · exact respond_repeats
    · exact runArm_repeats h _

/-- DISPATCH leaves the request and the answers it has read as they are. -/
theorem exec_dispatch_sameRequest {s t : State} (h : exec .dispatch s = .next t) : SameRequest s t := by
  have hd := exec_dispatchOk .dispatch s rfl
  rw [h] at hd
  obtain ⟨made, sent, ex, st, r, res, -, -, -, rfl⟩ := hd
  exact ⟨rfl, rfl, rfl, rfl, rfl, rfl, rfl⟩

/-- Settles O59: the first DISPATCH leaves the same request, and DISPATCH of the same request repeats itself. -/
theorem secondDispatchRepeatsTheReply : Obligations.SecondDispatchRepeatsTheReply := fun _ _ _ h =>
  exec_dispatch_repeats (exec_dispatch_sameRequest h) _ h

end Sys2Proof.Machine
end

section
/-! The family of 60_exceptions.md. The status and reason numbers; the reserved host command bytes; where an answer that
breaks an agent's duty stops the machine, and that nothing else stops it. -/

namespace Sys2Proof.Machine

/-! ### The numbers -/

/-- Settles O28: the numbers are the tables' own, and the bound is theirs. -/
theorem statusCodeNumbers : Obligations.StatusCodeNumbers := by
  have hbound (st : Status) : st.code.toNat ≤ 8 := by cases st <;> decide
  refine ⟨rfl, rfl, rfl, rfl, rfl, rfl, rfl, rfl, rfl, hbound, ?_⟩
  decide

/-! ### The reserved host command bytes -/

/-- OP 0xA..0xF, or a bit above OP set, makes a byte of at least 10. -/
theorem le_toNat_of_reserved {b : Byte} (h : 10 ≤ (b.extractLsb' 0 4).toNat ∨ b.extractLsb' 4 4 ≠ 0#4) :
    10 ≤ b.toNat := by
  obtain hop | hhigh := h
  · rw [BitVec.extractLsb'_toNat, Nat.shiftRight_zero] at hop
    omega
  · by_contra hlt
    refine hhigh (BitVec.eq_of_toNat_eq ?_)
    rw [BitVec.extractLsb'_toNat, Nat.shiftRight_eq_div_pow]
    simp only [BitVec.toNat_ofNat]
    omega

/-- The row of a reserved byte is one of the six that answer ILLEGAL_OP. -/
theorem exec_decodeReservedOp (b : Byte) (s : State) : exec (decodeReservedOp b) s = illegalOp s := by
  unfold decodeReservedOp
  split_ifs <;> rfl

/-- Settles O5: such a byte is at least 10, so its row is a reserved one. -/
theorem reservedBytesAnswerIllegalOp : Obligations.ReservedBytesAnswerIllegalOp := by
  intro r s h
  rw [decodeHost_reserved r (le_toNat_of_reserved h), exec_decodeReservedOp]
  exact raise_eq s .illegalOp .none

/-! ### Where a broken duty stops the machine -/

theorem queryApps_tooMany {s : State} {k : List AppRecord → State → Out} (h : s.env.apps.length > 255) :
    queryApps s k = .fault .tooManyApps := if_pos h

theorem queryApps_nul {s : State} {k : List AppRecord → State → Out} (hlen : s.env.apps.length ≤ 255)
    (hnul : s.env.apps.all appClean = false) : queryApps s k = .fault .nulInString := by
  rw [queryApps, if_neg (Nat.not_lt.2 hlen), if_neg (by rw [hnul]; decide)]

theorem queryCurrentApp_nul {s : State} {k : Bytes → State → Out} (h : noNul s.env.currentApp = false) :
    queryCurrentApp s k = .fault .nulInString := if_neg (by rw [h]; decide)

theorem send_overrun_fault {s : State} {f : Bytes} {n : Nat} (r : Reason) (hs : s.env.sink = .count n)
    (hn : n > f.length) : send s (.ok f) r = .fault .sinkOverrun := by
  simp only [send, sinkWrite, hs, if_pos hn]

/-- An ok reply without a body is a frame of 12 bytes. -/
theorem replyOk_empty_overrun {s : State} {n : Nat} (hw : s.cfg.wf = true) (hs : s.env.sink = .count n) (hn : n > 12) :
    replyOk s [] = .fault .sinkOverrun := by
  obtain ⟨hfit, hcap⟩ := replyCap_bounds hw .startArgs
  rw [replyOk, State.encodeWith, encodeFrame_fits _ _ _ _ _ _ _ (by rw [frameSize_none, List.length_nil]; omega) hcap]
  exact send_overrun_fault _ hs (by simpa using hn)

/-- Settles O19: each arm makes the query, or sends the reply, whose answer breaks the duty. -/
theorem brokenDutiesFault : Obligations.BrokenDutiesFault := by
  refine fun s => ⟨fun hmany => ⟨?_, fun hcur => ?_⟩, fun hlen hnul => ?_, fun hnul => ?_, fun n hw hok hs hn => ?_⟩
  · rw [exec, execAppList, queryApps_tooMany hmany]
  · rw [exec, execCurAppInfo, queryCurrentApp_ok s _ hcur, queryApps_tooMany (s := s.logCall _) hmany]
  · rw [exec, execAppList, queryApps_nul hlen hnul]
  · rw [exec, execCurAppInfo, queryCurrentApp_nul hnul]
  · rw [exec_exitApp_ok hok]
    exact replyOk_empty_overrun hw hs hn

/-! ### Nothing else stops it -/

/-- Every host operation but DISPATCH answers a next state. -/
theorem exec_next_of_not_dispatches {i : Instr} (hi : dispatches i = false) (s : State) : ∃ t, exec i s = .next t := by
  cases i
  case init => exact ⟨_, rfl⟩
  case encode => exact (finishEncode_next s _).imp fun _ h => h.1
  case encRespOk => exact (finishEncode_next s _).imp fun _ h => h.1
  case encReport => exact (finishEncode_next s _).imp fun _ h => h.1
  case encRespErr => exact (finishEncode_next s _).imp fun _ h => h.1
  case decodeAt => exact (execDecodeAt_next _ _ s).imp fun _ h => h.1
  case push => exact (execPush_next _ s).imp fun _ h => h.1
  case tryDecode => exact (execTryDecode_next s).imp fun _ h => h.1
  case rdreg => exact (execRdreg_next _ s).imp fun _ ⟨_, h, _⟩ => h
  case illegal0A | illegal0C | illegal10 | illegal20 | illegal40 | illegal80 => exact ⟨_, rfl⟩
  all_goals cases hi

theorem exec_not_refused (i : Instr) (s : State) (r : Refusal) : exec i s ≠ .refused r := by
  intro hr
  cases hi : dispatches i with
  | true =>
    have hd := exec_dispatchOk i s hi
    rw [hr] at hd
    exact hd
  | false =>
    obtain ⟨t, ht⟩ := exec_next_of_not_dispatches hi s
    cases hr.symm.trans ht

theorem dispatches_of_fault {i : Instr} {s : State} {r : Fault} (h : exec i s = .fault r) : dispatches i = true := by
  by_contra hi
  obtain ⟨t, ht⟩ := exec_next_of_not_dispatches (Bool.not_eq_true _ ▸ hi) s
  cases h.symm.trans ht

/-! ### Every fault is explained -/

theorem Explained.of_next {s : State} {o : Out} {run : Env → Out} (h : ∃ t, o = .next t) : Explained s o run := by
  intro r hr
  obtain ⟨t, ht⟩ := h
  cases ht.symm.trans hr

/-- The explanation of what follows a call explains the whole, when both runs make that call first. -/
theorem Explained.afterCall {s : State} {o : Out} {c : AgentCall} {run run' : Env → Out}
    (h : Explained (s.logCall c) o run) (hdutiful : run' s.env.dutiful = run s.env.dutiful)
    (hall : run' s.env.sinkAll = run s.env.sinkAll) : Explained s o run' := by
  intro r hr
  have hx := h r hr
  cases r with
  | tooManyApps =>
    obtain ⟨hmany, hcall⟩ := hx
    exact ⟨hmany, hdutiful ▸ hcall.later⟩
  | nulInString =>
    exact hx.imp (fun ⟨hnul, hcall⟩ => ⟨hnul, hdutiful ▸ hcall.later⟩) fun ⟨hnul, hcall⟩ => ⟨hnul, hdutiful ▸ hcall.later⟩
  | sinkOverrun =>
    obtain ⟨n, f, hs, hcall, hn⟩ := hx
    exact ⟨n, f, hs, hall ▸ hcall.later, hn⟩

/-- An operation that asks for the current app first. -/
theorem queryCurrentApp_explained {may : Prop} (s : State) (k : Bytes → State → Out)
    (hk : DispatchOk may (({ s with env := s.env.dutiful } : State).logCall .currentAppId)
      (k [] (({ s with env := s.env.dutiful } : State).logCall .currentAppId)))
    (h : Explained (s.logCall .currentAppId) (k s.env.currentApp (s.logCall .currentAppId))
      (fun e => k e.currentApp (({ s with env := e } : State).logCall .currentAppId))) :
    Explained s (queryCurrentApp s k) (fun e => queryCurrentApp { s with env := e } k) := by
  have hdutiful := queryCurrentApp_ok { s with env := s.env.dutiful } k rfl
  cases hnul : noNul s.env.currentApp with
  | true =>
    rw [queryCurrentApp_ok s k hnul]
    exact h.afterCall hdutiful (queryCurrentApp_ok { s with env := s.env.sinkAll } k hnul)
  | false =>
    rw [queryCurrentApp_nul hnul]
    rintro r ⟨⟩
    have hcall : Calls s .currentAppId (queryCurrentApp { s with env := s.env.dutiful } k) := by
      rw [hdutiful]
      exact Calls.first (s := { s with env := s.env.dutiful }) hk rfl rfl rfl
    exact .inr ⟨hnul, hcall⟩

/-! ### The arms -/

theorem execAppList_explained (s : State) :
    Explained s (execAppList s) (fun e => execAppList { s with env := e }) :=
  queryApps_explained (may := True) s _ (replyOk_dispatchOk _ _ _) (replyOk_overrun _ _ _ rfl rfl rfl rfl)

theorem startTarget_overrun (s s' : State) (target : Target) (arg : Bytes) (h : s'.env.sink = .all)
    (hc : s'.cfg = s.cfg) (hm : s'.cfgMagic = s.cfgMagic) (hb : s'.msg.cmd = s.msg.cmd) :
    Overrun s s' (startTarget s target arg) (startTarget s' target arg) :=
  Overrun.afterCall (replyOk_overrun _ _ _ h hc hm hb)

theorem execStartApp_explained (s : State) :
    Explained s (execStartApp s) (fun e => execStartApp { s with env := e }) := by
  unfold execStartApp
  dsimp only
  cases parseArgs s.msg.body 2 with
  | none => exact Overrun.explained (replyErr_overrun _ _ _ _ rfl rfl rfl rfl)
  | some p =>
    obtain ⟨idx, toks⟩ := p
    dsimp only
    split_ifs with hidx hid
    · exact Overrun.explained (replyErr_overrun _ _ _ _ rfl rfl rfl rfl)
    · exact Overrun.explained (startTarget_overrun _ _ _ _ rfl rfl rfl rfl)
    · refine queryApps_explained (may := True) s _ ?_ ?_
      · split
        · exact replyErr_dispatchOk _ _ _ _
        · exact DispatchOk_of_logCall rfl (replyOk_dispatchOk _ _ _)
      · split
        · exact replyErr_overrun _ _ _ _ rfl rfl rfl rfl
        · exact startTarget_overrun _ _ _ _ rfl rfl rfl rfl

theorem execExitApp_explained (s : State) :
    Explained s (execExitApp s) (fun e => execExitApp { s with env := e }) := by
  refine Overrun.explained (Overrun.afterCall (c := .requestExit) ?_)
  unfold execExitApp queryExit
  dsimp only [Env.sinkAll]
  cases s.env.exitResult with
  | ok => exact replyOk_overrun _ _ _ rfl rfl rfl rfl
  | err e => exact replyErr_overrun _ _ _ _ rfl rfl rfl rfl

/-- The reply reads the current app that the state holds, so that its body is the same function in each run. -/
theorem execCurAppInfo_explained (s : State) :
    Explained s (execCurAppInfo s) (fun e => execCurAppInfo { s with env := e }) := by
  refine queryCurrentApp_explained (may := True) s _ (queryApps_dispatchOk _ _ _ (replyOk_dispatchOk _ _ _)) ?_
  exact queryApps_explained (may := True) (s.logCall .currentAppId)
    (fun apps s2 => replyOk s2 (curAppBody apps s2.env.currentApp)) (replyOk_dispatchOk _ _ _)
    (replyOk_overrun _ _ _ rfl rfl rfl rfl)

theorem execAppInfo_explained (s : State) :
    Explained s (execAppInfo s) (fun e => execAppInfo { s with env := e }) := by
  unfold execAppInfo
  dsimp only
  cases parseArgs s.msg.body 1 with
  | none => exact Overrun.explained (replyErr_overrun _ _ _ _ rfl rfl rfl rfl)
  | some p =>
    refine queryApps_explained (may := True) s _ ?_ ?_
    · split
      · exact replyErr_dispatchOk _ _ _ _
      · exact replyOk_dispatchOk _ _ _
    · split
      · exact replyErr_overrun _ _ _ _ rfl rfl rfl rfl
      · exact replyOk_overrun _ _ _ rfl rfl rfl rfl

/-! ### The multiplexer -/

theorem runArm_explained (i : Instr) (s : State) :
    Explained s (runArm i s) (fun e => runArm i { s with env := e }) := by
  cases i
  case appList => exact execAppList_explained s
  case startApp => exact execStartApp_explained s
  case exitApp => exact execExitApp_explained s
  case curAppInfo => exact execCurAppInfo_explained s
  case appInfo => exact execAppInfo_explained s
  all_goals exact .of_next ⟨_, notHandled_eq s _⟩

theorem execDispatch_explained (s : State) :
    Explained s (execDispatch s) (fun e => execDispatch { s with env := e }) := by
  unfold execDispatch
  dsimp only
  split_ifs
  · exact .of_next ⟨_, raise_eq s _ _⟩
  · exact .of_next ⟨_, notHandled_eq s _⟩
  · exact runArm_explained _ s

/-- An instruction of the CMD format is run by the multiplexer as itself, so its faults are explained. -/
theorem exec_explained_of_cmd {i : Instr} {c : Byte} (h : encode i = .cmd c) (s : State) :
    Explained s (exec i s) (fun e => exec i { s with env := e }) := by
  simpa only [runArm_eq_exec h] using runArm_explained i s

/-- Every fault of every instruction is explained. -/
theorem exec_explained (i : Instr) (s : State) :
    Explained s (exec i s) (fun e => exec i { s with env := e }) := by
  cases i
  case dispatch => exact execDispatch_explained s
  case frameRequest => exact runArm_explained _ s
  case frameResponse => exact .of_next ⟨_, notHandled_eq s _⟩
  case setReport | appList | startApp | exitApp | curAppInfo | appInfo | key | touch => exact exec_explained_of_cmd rfl s
  case appCmd00 | appCmd80 | appCmdC0 | reservedC8 | reservedD0 | reservedE0 | reservedF0 =>
    exact exec_explained_of_cmd rfl s
  all_goals exact .of_next (exec_next_of_not_dispatches rfl s)

/-- Settles O18: no instruction is refused, only the dispatcher faults, and each of its faults is explained. -/
theorem faultsOnlyOnBrokenDuties : Obligations.FaultsOnlyOnBrokenDuties := fun i s =>
  ⟨exec_not_refused i s, fun _ h => ⟨dispatches_of_fault h, (exec_explained i s).brokenDuty h⟩⟩

end Sys2Proof.Machine
end
